-- ==== Sys2Proof/Word.lean ====
section
/-! DEFINITION. The word types of the HT-410 and the saturating count (00_scope, Conventions: Counters). -/

namespace Sys2Proof

/-- A byte of a frame, of the configuration memory or of a register field. -/
abbrev Byte := BitVec 8

/-- A 16-bit counter; it saturates at 65535 (00_scope, Counters). -/
abbrev Counter := BitVec 16

/-- One count: a counter at 65535 stays there (R22, R184). -/
def Counter.bump (c : Counter) : Counter := if c = 65535 then c else c + 1

/-- A cue id as frames and the queue carry it; 0 means none (R63). -/
abbrev CueId := BitVec 16

end Sys2Proof
end

