-- ==== Sys2Proof/Syntax.lean ====
section
/-! DEFINITION. The commands of the HT-410: one constructor of `Instr` for each row of spec/opcode_table.json, in the
table's order. A row is a step of the part (95_what_each_step_holds); its operands are what the outside supplies with it. -/

namespace Sys2Proof

/-- The two axes of a wagon (00_scope, The Convertible Hall). -/
inductive Axis where
  | ring
  | tilt
  deriving DecidableEq, Repr

/-- The three transmit slots (R11). -/
inductive SlotKind where
  | status
  | halt
  | report
  deriving DecidableEq, Repr

/-- A timer or count whose last advance a control tick has brought on and whose own step (a row of the table) is still to
be taken (log entry 1). -/
inductive Due where
  | statusPeriod
  | peerStale (station : Nat)
  | peerLost (station : Nat)
  | arm
  | permit
  | brake (axis : Axis)
  | recheck
  | pinch (axis : Axis)
  | settle
  | trip (channel : Fin 8)
  | untrip (channel : Fin 8)
  deriving DecidableEq, Repr

/-- The blocks that act at a control tick. The spec lets each block keep its own time from the one tick, so the order
in which they act within a tick is an operand of CONTROL_TICK (log entry 2). The last two are no blocks: `expiry d` places the
step of a mark that an earlier block of the same tick has set between two blocks, as the table after R149 does, and
`conversion r` the completion of the tick's conversion, which R167 lets come before Tow Logic's reading at the same tick. -/
inductive TickBlock where
  | clashAge
  | peerAging
  | statusTimer
  | permitTimer
  | armTimer
  | settleCount
  | planners
  | skewCheck
  | brakeTimers
  | towLogic
  | tiltDriveCheck
  | limitCheck
  | recheckTimer
  | monitorTurn
  | followCheck
  | exchange
  | expiry (due : Due)
  | conversion (reading : BitVec 10)
  deriving DecidableEq, Repr

/-- A drive reply as the part takes it in (R141): the fields named there and whether its check is correct. -/
structure DriveReply where
  checkCorrect : Bool
  ringReady : Bool
  tiltReady : Bool
  faultCode : Byte
  echoRing : Int
  echoTilt : Int
  deriving DecidableEq, Repr

/-- The commands (steps) of the part, one for each row of the opcode table. -/
inductive Instr where
  /-- POWER_ON (R171): RSTN rises; the strap pins and the first sample of the discrete input pins. -/
  | powerOn (straps : BitVec 5) (pins : BitVec 8)
  /-- CONFIG_READ_START (R171): the power-up wait ends and the read of the memory starts. -/
  | configReadStart
  /-- CONFIG_READ_COMPLETE (R170): the last of the 148 bytes read. -/
  | configReadComplete (bytes : List Byte)
  /-- CONTROL_TICK (R90): the tick, with the order in which the blocks act at it. -/
  | controlTick (order : List TickBlock)
  /-- DRIVE_EXCHANGE_COMPLETE (R141): the reply, or none when no reply came. -/
  | driveExchangeComplete (reply : Option DriveReply)
  /-- SENSOR_READ_COMPLETE (R144): a good value, or none for a failed read (R145). -/
  | sensorReadComplete (sensor : Axis) (value : Option Int)
  /-- STATUS_PERIOD_EXPIRY (R49). -/
  | statusPeriodExpiry
  /-- PEER_ENTRY_STALE (R46). -/
  | peerEntryStale (station : Nat)
  /-- PEER_ENTRY_LOST (R47). -/
  | peerEntryLost (station : Nat)
  /-- ARM_TIMER_EXPIRY (R73). -/
  | armTimerExpiry
  /-- PERMIT_TIMER_EXPIRY (R111). -/
  | permitTimerExpiry
  /-- BRAKE_TIMER_EXPIRY (R148). -/
  | brakeTimerExpiry (axis : Axis)
  /-- RECHECK_TIMER_EXPIRY (R176). -/
  | recheckTimerExpiry
  /-- PINCH_LIMIT (R99). -/
  | pinchLimit (axis : Axis)
  /-- SETTLE_COUNT_REACHED (R78). -/
  | settleCountReached
  /-- MONITOR_CONVERSION (R161): the raw reading of the channel named by the turn. -/
  | monitorConversion (reading : BitVec 10)
  /-- MONITOR_TRIP (R163). -/
  | monitorTrip (channel : Fin 8)
  /-- MONITOR_UNTRIP (R163). -/
  | monitorUntrip (channel : Fin 8)
  /-- INPUT_LEVEL_CHANGE (R150): the new level of one discrete input. -/
  | inputLevelChange (input : Fin 8) (level : Bool)
  /-- FRAME_END (R16): the whole bytes received after the start byte, and whether bits of a further byte were. -/
  | frameEnd (bytes : List Byte) (partialByte : Bool)
  /-- FRAME_COMPLETE (R20). -/
  | frameComplete
  /-- STATUS (R44): the STATUS at the head of the receive queue, handed to the Peer Table. -/
  | status
  /-- CUE (R66): the CUE at the head of the receive queue. -/
  | cue
  /-- PERMIT (R111): the PERMIT at the head of the receive queue. -/
  | permit
  /-- HALT (R123): the oldest accepted HALT not yet delivered. -/
  | halt
  /-- CLEAR_LATCH_PART (R156) of the CLEAR at the head of the receive queue. -/
  | clearLatchPart
  /-- CLEAR_FAULT_PART (R126) of the CLEAR at the head of the receive queue. -/
  | clearFaultPart
  /-- CLEAR_TOW_PART (R136) of the CLEAR at the head of the receive queue. -/
  | clearTowPart
  /-- CANCEL (R82): the CANCEL at the head of the receive queue. -/
  | cancel
  /-- INQUIRE (R180): the INQUIRE at the head of the receive queue. -/
  | inquire
  /-- RESET (R177): the RESET at the head of the receive queue; a soft reset samples the strap pins. -/
  | reset (straps : BitVec 5)
  /-- ARBITER_START (R15): a cell boundary at the given quiet time. -/
  | arbiterStart (quiet : BitVec 8)
  /-- TRANSMIT_SUCCESS (R5). -/
  | transmitSuccess
  /-- COLLISION (R6): the cell after the start byte's last, or none in the preamble or start byte. -/
  | collision (cell : Option Nat)
  /-- JAM_END (R7). -/
  | jamEnd
  /-- BACKOFF_END (R8) of one slot. -/
  | backoffEnd (slot : SlotKind)
  /-- RSTN_HELD_LOW (R171). -/
  | rstnHeldLow
  /-- BURST_START (R2). -/
  | burstStart
  /-- START_BYTE_FOUND (R2). -/
  | startByteFound
  /-- LIVE_COPY_ALTERATION (R176): an upset gives one byte of the live copy another value. -/
  | liveCopyAlteration (address : Nat) (value : Byte)
  deriving DecidableEq, Repr

end Sys2Proof
end

