-- ==== Sys2Proof/Decode.lean ====
section
/-! DEFINITION. The command a table word spells. The HT-410 is no processor and opcode_table.json gives no row any bits
(every row's "fields" is empty and none has a pattern), so no word spells a command. -/

namespace Sys2Proof

/-- The command that a word spells by the table's bits: no row gives bits, so none (log entry 3). -/
def decodeTableWord (_nbits _w : Nat) : Option Instr := none

end Sys2Proof
end

