-- ==== Sys2Proof/Config.lean ====
section
/-! DEFINITION. The free values of the HT-410: values the spec leaves unstated. Each is opaque, so that no proof
can see it; the assumption log names each. -/

namespace Sys2Proof

/-- What a STATUS carries for a measured ring position outside the signed 24-bit field of R27 (R144 uses a sum beyond
the nominal range as it stands and states no encoding for one that does not fit). Log entry 4. -/
opaque Config.ringFieldOutside : Int → BitVec 24

/-- What a STATUS carries for a measured tilt outside the unsigned 16-bit field of R27. Log entry 4. -/
opaque Config.tiltFieldOutside : Int → BitVec 16

/-- What a STATUS carries for a velocity outside the signed 16-bit field of R27. Log entry 4. -/
opaque Config.velocityFieldOutside : Int → BitVec 16

/-- The braking distance of R94, `v * v / (2 * a)`, at an acceleration step `a` of 0, which only an alteration of the
live copy (R176) can bring. Log entry 5. -/
opaque Config.brakingDistanceAtRest : Nat → Nat

/-- The status period of a node in CONFIG_FAULT (R53, R173 give none: the live copy is not used). Log entry 6. -/
opaque Config.unconfiguredStatusPeriod : Nat

/-- The permit time of a node in CONFIG_FAULT (R111 runs the timer there and R173 gives no permit_ticks). Log entry 6. -/
opaque Config.unconfiguredPermitTicks : Nat

/-- How far a consequence chain is followed within one step with `cues` cues in the queue: no chain is longer
(`Machine.Node.settled_done`, log entry 9). -/
def Config.chainBound (cues : Nat) : Nat := 8 * cues + 24

end Sys2Proof
end

