-- ==== Sys2Proof/Machine/State.lean ====
section
/-! DEFINITION. Everything the HT-410 holds, as plain data, block by block in the spec's order, and the state after reset. -/

namespace Sys2Proof.Machine

/-! ## Names of the spec (00_scope, Names) -/

/-- The ten phases (R62). HALTED's substate is `CueCtl.ramping`. -/
inductive Phase where
  | starting | configFault | idle | armed | moving | holding | stopping | settling | done | halted
  deriving DecidableEq, Repr

/-- The thirteen latched faults, in the order of their reason codes 1 to 13 (R117). -/
inductive FaultKind where
  | estop | limit | drive | follow | sensor | brake | monitor | pinch | skew | peerLost | tow | config | address
  deriving DecidableEq, Repr

/-- The five hold causes, in the order of their STATUS bits (R27, R112). -/
inductive HoldCause where
  | permit | peer | personnel | stowed | monitor
  deriving DecidableEq, Repr

/-- A set of latched faults: bit n for the fault of code n + 1, as a STATUS carries it (R27). -/
abbrev FaultSet := BitVec 13

/-- A set of hold causes, as a STATUS carries it (R27). -/
abbrev HoldSet := BitVec 5

/-- Why a cue was refused or failed, in the order of the refusal codes 0 to 8 (R27). -/
inductive CueReason where
  | none | state | full | range | shape | stowed | config | peerRefused | timeout
  deriving DecidableEq, Repr

/-- How a cue left the queue for good (R65). -/
inductive CueEnd where
  | done | failed | cancelled
  deriving DecidableEq, Repr

/-- How recent a peer entry's content is (R42, R45). -/
inductive Freshness where
  | absent | fresh | stale | lost
  deriving DecidableEq, Repr

/-- Whether the wagon moves on its own ring drive or is towed (R130). -/
inductive RingMode where
  | driven | towed
  deriving DecidableEq, Repr

/-- The reason a HALT carries: PANEL (code 0) or a fault's code (section 2.4, R29). -/
inductive HaltReason where
  | panel
  | fault (k : FaultKind)
  deriving DecidableEq, Repr

/-! ## Line Unit, transmit side (R4 to R15) -/

/-- The four states of a transmit slot (R11); a backoff knows its length in bit-times (R8). -/
inductive SlotState where
  | empty
  | pending
  | backoff (bitTimes : Nat)
  | sending
  deriving DecidableEq, Repr

/-- A transmit slot (R11): its state, the frame content (header and payload), the collision count, and whether the
content was replaced while an attempt was on the line (R12). -/
structure Slot where
  state : SlotState
  content : List Byte
  collisions : Counter
  replaced : Bool
  deriving DecidableEq, Repr

/-- A bit cell as TXD shows it: the level of its first half and of its second half, high for true (R1). -/
structure LineCell where
  first : Bool
  second : Bool
  deriving DecidableEq, Repr

/-- The transmit side: the three slots, the random source G (R9), the cells being driven on TXD (none when the part does
not drive it; R1, R5, R7), and, while the jam is sent, whether the collision was late (R6, R7). -/
structure TxUnit where
  status : Slot
  halt : Slot
  report : Slot
  random : BitVec 16
  driving : List LineCell
  jam : Option Bool
  deriving DecidableEq, Repr

/-! ## Line Unit, receive side (R1 to R3, R16 to R22) and frame processor (R20, R39) -/

/-- The receiver's delimiting state (R2). -/
inductive RxMode where
  | quiet | hunt | collect
  deriving DecidableEq, Repr

/-- How a queued frame is counted at its completion (R39). -/
inductive FrameFate where
  | accepted | filtered | old
  deriving DecidableEq, Repr

/-- How far the frame at the head of the receive queue has been applied: which of a CLEAR's parts are done (R30), and the
frame's fate once every owner has finished with it (R20, R39). The parts of one CLEAR do not depend on one another (R30, R127,
R136): `freed` says that its fault part has taken the wagon out of HALTED, and `breach` is whether the towed set broke the
limits of R139 as its tow part found it, once that part has returned the wagon to DRIVEN (log entry 27). -/
structure HeadWork where
  latchDone : Bool
  faultDone : Bool
  towDone : Bool
  freed : Bool
  breach : Option Bool
  fate : Option FrameFate
  deriving DecidableEq, Repr

/-- A HALT as the halt logic receives it (R29). -/
structure HaltMessage where
  reason : HaltReason
  origin : Nat
  deriving DecidableEq, Repr

/-- The receive side: delimiting state, quiet time, hunt window, frame store, byte count and partial byte (R1 to R3);
whether the burst is one of the node's own (R17); the receive queue (R19), the work on its head (R20), the accepted HALTs
whose delivery has not been taken yet (R21, log entry 1), and the clash age (R18). -/
structure RxUnit where
  mode : RxMode
  quietTime : BitVec 8
  window : Byte
  store : List Byte
  byteCount : Nat
  partialByte : Bool
  ownBurst : Bool
  queue : List (List Byte)
  head : HeadWork
  halts : List HaltMessage
  clashAge : Counter
  deriving DecidableEq, Repr

/-! ## Peer Table (R42 to R61) -/

/-- The last refusal record (R71): a cue id and a reason. -/
structure LastRefusal where
  id : CueId
  reason : CueReason
  deriving DecidableEq, Repr

/-- What a STATUS says of its sender (R27, R42): the content fields of a peer entry. -/
structure Content where
  phase : Phase
  ringMode : RingMode
  attention : Bool
  haltedRamping : Bool
  holds : HoldSet
  faults : FaultSet
  current : CueId
  lastDone : CueId
  ringPos : Int
  ringVel : Int
  tilt : Int
  tiltVel : Int
  demand : Byte
  digest : BitVec 16
  refusal : LastRefusal
  deriving DecidableEq, Repr

/-- One entry of the Peer Table (R42). -/
structure Entry where
  station : Nat
  freshness : Freshness
  age : Counter
  lastSeq : BitVec 8
  content : Content
  deriving DecidableEq, Repr

/-- The ring as settled when the configuration read completed (R43): whether it is closed, and its fitted stations in
ascending order. -/
structure RingMap where
  closed : Bool
  fitted : List Nat
  deriving DecidableEq, Repr

/-- The Peer Table: entries, ring map, own status sequence, status period timer (none while stopped), build allowance and
pending build (R42, R43, R49, R50). -/
structure PeerTable where
  entries : List Entry
  map : RingMap
  ownSeq : BitVec 8
  timer : Option Nat
  allowance : Bool
  pendingBuild : Bool
  deriving DecidableEq, Repr

/-! ## Cue Controller (R62 to R87, R111 to R129) -/

/-- What a cue asks of one axis (R63): the target in md or cd, the resolved speed in md/s or cd/s. -/
structure AxisMove where
  target : Int
  speed : Nat
  deriving DecidableEq, Repr

/-- One entry of the cue queue (R63). -/
structure Cue where
  id : CueId
  ring : Option AxisMove
  tilt : Option AxisMove
  interrupted : Bool
  deriving DecidableEq, Repr

/-- One record of the retired list (R65). -/
structure Retired where
  id : CueId
  how : CueEnd
  deriving DecidableEq, Repr

/-- The release state of an axis (R76). -/
inductive Release where
  | releasing | released
  deriving DecidableEq, Repr

/-- The halt record when present (R124). -/
structure HaltRecord where
  origin : Nat
  reason : HaltReason
  deriving DecidableEq, Repr

/-- The Cue Controller: phase and HALTED substate, cue queue (head first), retired list (oldest first), last done cue id,
last refusal, arm timer (count, and whether it runs), settle counter, release states, hold causes, permit timer (none while
not running), halt record and HALT count. -/
structure CueCtl where
  phase : Phase
  ramping : Bool
  queue : List Cue
  retired : List Retired
  lastDone : CueId
  refusal : LastRefusal
  arm : Nat
  armRunning : Bool
  settleCount : Nat
  ringRelease : Option Release
  tiltRelease : Option Release
  holds : HoldSet
  permit : Option Nat
  haltRecord : Option HaltRecord
  haltCount : BitVec 8
  deriving DecidableEq, Repr

/-! ## Axis Planner (R88) -/

/-- One Axis Planner (R88): setpoint and target in Q16, velocity memory in Q16 per tick, direction (`up` for +1), and the
pinch counter. -/
structure Planner where
  setpoint : Int
  velocity : Nat
  target : Int
  up : Bool
  pinch : Nat
  deriving DecidableEq, Repr

/-! ## Drive and Sensor Interface (R140 to R149) -/

/-- The supervision state of a brake (R148). -/
inductive Supervision where
  | unsupervised | changing | agreed
  deriving DecidableEq, Repr

/-- What the Drive and Sensor Interface holds for one axis: the held raw value, the consecutive failure count, whether a
read is under way, the brake output (released when high), its supervision and its timer. -/
structure AxisDrive where
  raw : Int
  readFails : Nat
  reading : Bool
  released : Bool
  supervision : Supervision
  brakeTimer : Nat
  deriving DecidableEq, Repr

/-- The last drive reply (R141): ready indications and fault code. -/
structure LastReply where
  ringReady : Bool
  tiltReady : Bool
  faultCode : Byte
  deriving DecidableEq, Repr

/-- The request record of the exchange begun last (R140). -/
structure DriveRequest where
  ringEnable : Bool
  tiltEnable : Bool
  ringSetpoint : Int
  tiltSetpoint : Int
  ringFeed : Int
  tiltFeed : Int
  deriving DecidableEq, Repr

/-- The Drive and Sensor Interface: both axes, the last reply, the consecutive failed-exchange count, the last request, and
whether an exchange is under way. -/
structure Drive where
  ring : AxisDrive
  tilt : AxisDrive
  reply : LastReply
  failedExchanges : Nat
  request : DriveRequest
  exchanging : Bool
  deriving DecidableEq, Repr

/-! ## Input Latches (R150 to R156) -/

/-- The Input Latches: levels, changed latches (bit n for input n) and the attention flag. -/
structure Inputs where
  levels : BitVec 8
  changed : BitVec 8
  attention : Bool
  deriving DecidableEq, Repr

/-! ## Monitor (R158 to R168) -/

/-- A live record (R159). -/
structure LiveRecord where
  last : Int
  outRun : Nat
  inRun : Nat
  tripped : Bool
  deriving DecidableEq, Repr

/-- The Monitor: the eight live records, the turn, and, where the conversion of the last tick is still to be given its reading,
the measured tilt held at that tick, which INCLINE's cross-check compares (R160, R162). -/
structure Monitor where
  live : Vector LiveRecord 8
  turn : Option (Fin 8)
  converting : Option Int
  deriving DecidableEq, Repr

/-! ## Configuration Loader (R169 to R179) -/

/-- Where the configuration read stands (R169, R171). -/
inductive ReadState where
  | idle | waiting | reading
  deriving DecidableEq, Repr

/-- The configuration status, codes 0 to 4 (R170). -/
inductive ConfigStatus where
  | valid | crc | field | station | channel
  deriving DecidableEq, Repr

/-- The Configuration Loader: the strap pins as last shown, the sampled station index, the read, whether MCS is low and the
bytes that go out on MSI during it (R169), the raw and live copies (148 bytes once a read has completed), the status, both
digests, and the recheck timer (none while stopped). -/
structure Cfg where
  strapPins : BitVec 5
  straps : BitVec 5
  read : ReadState
  mcsLow : Bool
  msi : List Byte
  raw : List Byte
  live : List Byte
  status : ConfigStatus
  startDigest : BitVec 16
  lastDigest : BitVec 16
  recheck : Option Nat
  deriving DecidableEq, Repr

/-! ## Counters (R184) -/

/-- The 25 counters, in the order of the COUNTERS page (section 2.5, R23, R86, R129, R179, R184). -/
structure Counters where
  statusSent : Counter
  haltSent : Counter
  reportSent : Counter
  collisions : Counter
  lateCollisions : Counter
  retryDrops : Counter
  statusOverruns : Counter
  haltsMerged : Counter
  inquiriesBusy : Counter
  runt : Counter
  crcError : Counter
  missed : Counter
  filtered : Counter
  old : Counter
  unexpectedStation : Counter
  accepted : Counter
  duplicateCues : Counter
  cuesAccepted : Counter
  cuesRefused : Counter
  retiredDone : Counter
  retiredFailed : Counter
  retiredCancelled : Counter
  haltsReceived : Counter
  sensorFailures : Counter
  resetRefused : Counter
  deriving DecidableEq, Repr

/-! ## The whole part -/

/-- The whole HT-410: whether RSTN is held low, and every block. `due` and `statusEvent` are the model's own: the steps a
tick has brought on, and the mark that a status event (R50) occurred within the step being taken. -/
structure Node where
  rstnLow : Bool
  tx : TxUnit
  rx : RxUnit
  peers : PeerTable
  cue : CueCtl
  ring : Planner
  tilt : Planner
  supplyScale : Nat
  ringMode : RingMode
  faults : FaultSet
  drive : Drive
  inputs : Inputs
  monitor : Monitor
  cfg : Cfg
  reportCount : BitVec 8
  counters : Counters
  due : List Due
  statusEvent : Bool
  deriving DecidableEq, Repr

/-- The machine: the part, and the commands that wait to be taken, first in, first out. -/
structure State where
  node : Node
  pending : List Instr
  deriving DecidableEq, Repr

/-- The part raises no fault that stops it: every fault of the spec is latched and the part goes on (R117), so there is no
constructor. Nothing raises it. -/
inductive Fault where
  deriving DecidableEq, Repr

/-- Why a command is refused. -/
inductive Refusal where
  /-- A command without a meaning yet, by its mnemonic; raised by no arm of this model. Safe: the machine stops. -/
  | notModelled (mnemonic : String)
  deriving DecidableEq, Repr

/-! ## Power-on values (R24, R61, R87, R110, R128, R157, R168, R179) -/

/-- An EMPTY slot (R24). -/
def Slot.initial : Slot := { state := .empty, content := [], collisions := 0, replaced := false }

/-- The transmit side at power-on (R24); the random source is 1 (R9). -/
def TxUnit.initial : TxUnit :=
  { status := .initial, halt := .initial, report := .initial, random := 1, driving := [], jam := none }

/-- The work on a frame just handed over: none yet (R20). -/
def HeadWork.initial : HeadWork :=
  { latchDone := false, faultDone := false, towDone := false, freed := false, breach := none, fate := none }

/-- The receive side at power-on (R24): QUIET, quiet time 0, queue empty, clash age 65535. -/
def RxUnit.initial : RxUnit :=
  { mode := .quiet, quietTime := 0, window := 0, store := [], byteCount := 0, partialByte := false, ownBurst := false
    queue := [], head := .initial, halts := [], clashAge := 65535 }

/-- The content of an ABSENT entry, all fields reading as zero (R42). -/
def Content.zero : Content :=
  { phase := .starting, ringMode := .driven, attention := false, haltedRamping := false, holds := 0, faults := 0
    current := 0, lastDone := 0, ringPos := 0, ringVel := 0, tilt := 0, tiltVel := 0, demand := 0, digest := 0
    refusal := { id := 0, reason := .none } }

/-- A peer entry at reset: ABSENT (R61). -/
def Entry.blankPeer (station : Nat) : Entry :=
  { station, freshness := .absent, age := 0, lastSeq := 0, content := .zero }

/-- The own entry at reset: FRESH, content zero (R61). -/
def Entry.blankOwn (station : Nat) : Entry :=
  { station, freshness := .fresh, age := 0, lastSeq := 0, content := .zero }

/-- The Peer Table at power-on and at soft reset (R61). The spec has the peer entries ABSENT and forms the set of entries when the
read completes, and says neither which stations have entries nor what the ring map is before that: here the own entry stands
alone, and the map is open and has no station (DESIGN CHOICE, log entry 20). -/
def PeerTable.initial (own : Nat) : PeerTable :=
  { entries := [.blankOwn own], map := { closed := false, fitted := [] }, ownSeq := 0, timer := none, allowance := true
    pendingBuild := false }

/-- The Cue Controller at power-on and at soft reset (R87, R128): only hold cause PERMIT (bit 0) is present. -/
def CueCtl.initial : CueCtl :=
  { phase := .starting, ramping := false, queue := [], retired := [], lastDone := 0
    refusal := { id := 0, reason := .none }, arm := 0, armRunning := false, settleCount := 0, ringRelease := none
    tiltRelease := none, holds := 1, permit := none, haltRecord := none, haltCount := 0 }

/-- An Axis Planner at power-on and at soft reset (R110): not planned. -/
def Planner.initial : Planner := { setpoint := 0, velocity := 0, target := 0, up := true, pinch := 0 }

/-- One axis of the Drive and Sensor Interface at power-on (R157). -/
def AxisDrive.initial : AxisDrive :=
  { raw := 0, readFails := 0, reading := false, released := false, supervision := .unsupervised, brakeTimer := 0 }

/-- The Drive and Sensor Interface at power-on (R157). -/
def Drive.initial : Drive :=
  { ring := .initial, tilt := .initial, reply := { ringReady := false, tiltReady := false, faultCode := 0 }
    failedExchanges := 0
    request := { ringEnable := false, tiltEnable := false, ringSetpoint := 0, tiltSetpoint := 0, ringFeed := 0
                 tiltFeed := 0 }
    exchanging := false }

/-- The Input Latches at power-on: the first sample of each pin, no latch set (R150, R157). -/
def Inputs.initial (pins : BitVec 8) : Inputs := { levels := pins, changed := 0, attention := false }

/-- A live record at reset (R168). -/
def LiveRecord.initial : LiveRecord := { last := 0, outRun := 0, inRun := 0, tripped := false }

/-- The Monitor at power-on and at soft reset (R168). -/
def Monitor.initial : Monitor := { live := Vector.replicate 8 .initial, turn := none, converting := none }

/-- The Configuration Loader at power-on (R171, R179): the straps sampled, the power-up wait running. -/
def Cfg.initial (straps : BitVec 5) : Cfg :=
  { strapPins := straps, straps, read := .waiting, mcsLow := false, msi := [], raw := [], live := [], status := .valid, startDigest := 0
    lastDigest := 0, recheck := none }

/-- The counters at power-on: 0 (R184). -/
def Counters.zero : Counters :=
  { statusSent := 0, haltSent := 0, reportSent := 0, collisions := 0, lateCollisions := 0, retryDrops := 0
    statusOverruns := 0, haltsMerged := 0, inquiriesBusy := 0, runt := 0, crcError := 0, missed := 0, filtered := 0
    old := 0, unexpectedStation := 0, accepted := 0, duplicateCues := 0, cuesAccepted := 0, cuesRefused := 0
    retiredDone := 0, retiredFailed := 0, retiredCancelled := 0, haltsReceived := 0, sensorFailures := 0
    resetRefused := 0 }

/-- The part right after power-on (R171): every block at its power-on values, phase STARTING. -/
def Node.powerOn (straps : BitVec 5) (pins : BitVec 8) : Node :=
  { rstnLow := false, tx := .initial, rx := .initial, peers := .initial straps.toNat, cue := .initial, ring := .initial
    tilt := .initial, supplyScale := 256, ringMode := .driven, faults := 0, drive := .initial, inputs := .initial pins
    monitor := .initial, cfg := .initial straps, reportCount := 0, counters := .zero, due := [], statusEvent := false }

/-- The machine right after reset: the power-on values with the straps and the first samples of the input pins all 0
(DESIGN CHOICE, log entry 7), and no command waiting. -/
def State.reset : State := { node := .powerOn 0 0, pending := [] }

end Sys2Proof.Machine
end

