-- ==== Sys2Proof/Machine/Operands.lean ====
section
/-! DEFINITION. Reading and writing fields: bytes and CRC (R5), the codes of chapter 2, the frame header and payloads
(sections 2.1 to 2.4), the cue record (R28), and the configuration record (section 10.1, R169, R175). -/

namespace Sys2Proof.Machine

/-! ## Bytes and CRC -/

/-- A multi-byte number, high byte first (00_scope, Multi-byte fields). -/
def beNat (l : List Byte) : Nat := l.foldl (fun a b => a * 256 + b.toNat) 0

/-- The field of `w` bytes at offset `off`. -/
def field (l : List Byte) (off w : Nat) : Nat := beNat ((l.drop off).take w)

/-- The byte at offset `off`; 0 past the end, where every reader of this model has checked the length or rejects the whole. -/
def byteAt (l : List Byte) (off : Nat) : Byte := l.getD off 0

/-- The two's complement reading of a field of `bits` bits. -/
def signedOf (bits n : Nat) : Int := if n < 2 ^ (bits - 1) then n else (n : Int) - 2 ^ bits

/-- A number as `w` bytes, high byte first. -/
def bytesBE : Nat → Nat → List Byte
  | 0, _ => []
  | w + 1, n => bytesBE w (n / 256) ++ [BitVec.ofNat 8 n]

/-- A two's complement number as `w` bytes, high byte first. -/
def signedBytes (w : Nat) (i : Int) : List Byte := bytesBE w (BitVec.ofInt (8 * w) i).toNat

/-- One bit into the CRC register, polynomial x^16+x^12+x^5+1 (R5). -/
def crcBit (c : BitVec 16) (bit : Bool) : BitVec 16 :=
  if (c.msb ^^ bit) = true then (c <<< 1) ^^^ 0x1021 else c <<< 1

/-- One byte into the CRC register, most significant bit first. -/
def crcByte (c : BitVec 16) (b : Byte) : BitVec 16 :=
  [7, 6, 5, 4, 3, 2, 1, 0].foldl (fun c i => crcBit c (b.getLsbD i)) c

/-- The CRC-16 of R5: initial value 0xFFFF, no final inversion. -/
def crc16 (l : List Byte) : BitVec 16 := l.foldl crcByte 0xFFFF

/-! ## Codes of chapter 2 -/

/-- The phase codes of section 2.2. -/
def Phase.code : Phase → Nat
  | .starting => 0 | .configFault => 1 | .idle => 2 | .armed => 3 | .moving => 4
  | .holding => 5 | .stopping => 6 | .settling => 7 | .done => 8 | .halted => 9

/-- The phase of a code of section 2.2, none above 9. -/
def Phase.ofCode : Nat → Option Phase
  | 0 => some .starting | 1 => some .configFault | 2 => some .idle | 3 => some .armed | 4 => some .moving
  | 5 => some .holding | 6 => some .stopping | 7 => some .settling | 8 => some .done | 9 => some .halted
  | _ => none

/-- The refusal codes of section 2.2. -/
def CueReason.code : CueReason → Nat
  | .none => 0 | .state => 1 | .full => 2 | .range => 3 | .shape => 4
  | .stowed => 5 | .config => 6 | .peerRefused => 7 | .timeout => 8

/-- The refusal reason of a code of section 2.2, none above 8. -/
def CueReason.ofCode : Nat → Option CueReason
  | 0 => some .none | 1 => some .state | 2 => some .full | 3 => some .range | 4 => some .shape
  | 5 => some .stowed | 6 => some .config | 7 => some .peerRefused | 8 => some .timeout
  | _ => Option.none

/-- The reason code of a fault (R117). -/
def FaultKind.code : FaultKind → Nat
  | .estop => 1 | .limit => 2 | .drive => 3 | .follow => 4 | .sensor => 5 | .brake => 6 | .monitor => 7
  | .pinch => 8 | .skew => 9 | .peerLost => 10 | .tow => 11 | .config => 12 | .address => 13

/-- All thirteen faults in the order of their codes. -/
def FaultKind.all : List FaultKind :=
  [.estop, .limit, .drive, .follow, .sensor, .brake, .monitor, .pinch, .skew, .peerLost, .tow, .config, .address]

/-- The code of a halt reason (section 2.4). -/
def HaltReason.code : HaltReason → Nat
  | .panel => 0
  | .fault k => k.code

/-- The halt reason of a received code: 0 to 13 as the table gives, 14 to 255 PANEL (R29). -/
def HaltReason.ofCode (n : Nat) : HaltReason :=
  match FaultKind.all.find? (fun k => k.code == n) with
  | some k => .fault k
  | none => .panel

/-- The outcome codes of the CUES page (section 2.5). -/
def CueEnd.code : CueEnd → Nat
  | .done => 0 | .failed => 1 | .cancelled => 2

/-- The freshness codes of the PEERS page (section 2.5). -/
def Freshness.code : Freshness → Nat
  | .absent => 0 | .fresh => 1 | .stale => 2 | .lost => 3

/-- The configuration status codes (R170). -/
def ConfigStatus.code : ConfigStatus → Nat
  | .valid => 0 | .crc => 1 | .field => 2 | .station => 3 | .channel => 4

/-- Bit 0 of the STATUS flags (section 2.2). -/
def RingMode.code : RingMode → Nat
  | .driven => 0 | .towed => 1

/-! ## The header (section 2.1) -/

/-- The kind, bits 7 to 4 of byte 0. -/
def frameKind (f : List Byte) : Nat := (byteAt f 0).toNat / 16

/-- The format version, bits 3 to 0 of byte 0. -/
def frameVersion (f : List Byte) : Nat := (byteAt f 0).toNat % 16

/-- The payload length, byte 1. -/
def frameLength (f : List Byte) : Nat := (byteAt f 1).toNat

/-- Bytes 2 and 3 whole: the destination tag with its four upper bits. -/
def frameDestWord (f : List Byte) : Nat := field f 2 2

/-- Bytes 4 and 5 whole: the source tag with its four upper bits. -/
def frameSourceWord (f : List Byte) : Nat := field f 4 2

/-- The destination tag, bits 11 to 0. -/
def frameDest (f : List Byte) : Nat := frameDestWord f % 4096

/-- The source tag, bits 11 to 0. -/
def frameSource (f : List Byte) : Nat := frameSourceWord f % 4096

/-- The source station, byte 6. -/
def frameStation (f : List Byte) : Nat := (byteAt f 6).toNat

/-- The sequence, byte 7. -/
def frameSeq (f : List Byte) : BitVec 8 := byteAt f 7

/-- The payload: everything after the eight header bytes. -/
def framePayload (f : List Byte) : List Byte := f.drop 8

/-- The header a wagon writes, format version 1 (R25). -/
def header (kind len dest src station : Nat) (seq : BitVec 8) : List Byte :=
  [BitVec.ofNat 8 (kind * 16 + 1), BitVec.ofNat 8 len] ++ bytesBE 2 dest ++ bytesBE 2 src
    ++ [BitVec.ofNat 8 station, seq]

/-! ## The STATUS payload (section 2.2, R27) -/

/-- A ring position as the signed 24-bit field; outside it the spec states none (log entry 4). -/
def ringField (p : Int) : List Byte :=
  if -8388608 ≤ p ∧ p ≤ 8388607 then signedBytes 3 p else bytesBE 3 (Config.ringFieldOutside p).toNat

/-- A tilt as the unsigned 16-bit field; outside it the spec states none (log entry 4). -/
def tiltField (p : Int) : List Byte :=
  if 0 ≤ p ∧ p ≤ 65535 then bytesBE 2 p.toNat else bytesBE 2 (Config.tiltFieldOutside p).toNat

/-- A velocity as the signed 16-bit field; outside it the spec states none (log entry 4). -/
def velocityField (u : Int) : List Byte :=
  if -32768 ≤ u ∧ u ≤ 32767 then signedBytes 2 u else bytesBE 2 (Config.velocityFieldOutside u).toNat

/-- The flags byte: bit 0 ring mode, bit 1 attention, bit 2 halted-ramping. -/
def Content.flags (c : Content) : Nat :=
  c.ringMode.code + 2 * c.attention.toNat + 4 * c.haltedRamping.toNat

/-- A STATUS payload from an entry's content (R27): 24 bytes. -/
def statusPayload (c : Content) : List Byte :=
  [BitVec.ofNat 8 c.phase.code, BitVec.ofNat 8 c.flags, c.holds.setWidth 8]
    ++ bytesBE 2 c.faults.toNat ++ bytesBE 2 c.current.toNat ++ bytesBE 2 c.lastDone.toNat
    ++ ringField c.ringPos ++ velocityField c.ringVel ++ tiltField c.tilt ++ velocityField c.tiltVel
    ++ [c.demand] ++ bytesBE 2 c.digest.toNat ++ bytesBE 2 c.refusal.id.toNat
    ++ [BitVec.ofNat 8 c.refusal.reason.code]

/-- The content a STATUS payload says (R27): flag bits 3 to 7, hold-cause bits 5 to 7 and fault bits 13 to 15 are ignored.
The filter has already turned away phase codes above 9 and refusal codes above 8 (R34). -/
def decodeStatus (p : List Byte) : Content :=
  { phase := (Phase.ofCode (field p 0 1)).getD .starting
    ringMode := if (byteAt p 1).getLsbD 0 then .towed else .driven
    attention := (byteAt p 1).getLsbD 1
    haltedRamping := (byteAt p 1).getLsbD 2
    holds := (byteAt p 2).setWidth 5
    faults := BitVec.ofNat 13 (field p 3 2)
    current := BitVec.ofNat 16 (field p 5 2)
    lastDone := BitVec.ofNat 16 (field p 7 2)
    ringPos := signedOf 24 (field p 9 3)
    ringVel := signedOf 16 (field p 12 2)
    tilt := field p 14 2
    tiltVel := signedOf 16 (field p 16 2)
    demand := byteAt p 18
    digest := BitVec.ofNat 16 (field p 19 2)
    refusal := { id := BitVec.ofNat 16 (field p 21 2), reason := (CueReason.ofCode (field p 23 1)).getD .none } }

/-! ## The cue record (section 2.3, R28, R40) -/

/-- The tilt form of a cue record, with its speed. -/
inductive TiltForm where
  | none
  | uniform (value speed : Nat)
  | list (values : List Nat) (speed : Nat)
  deriving DecidableEq, Repr

/-- A cue record as read (R28). -/
structure CueRecord where
  id : CueId
  roster : List Nat
  ring : Option (Int × Nat)
  tilt : TiltForm
  deriving DecidableEq, Repr

/-- `count` two-byte fields from `off` on. -/
def words (l : List Byte) (off : Nat) : Nat → List Nat
  | 0 => []
  | count + 1 => field l off 2 :: words l (off + 2) count

/-- Reads a cue record field by field, and answers none where R40 calls it malformed. A field that would run past the end
makes the implied length exceed the payload length. -/
def readCue (p : List Byte) : Option CueRecord :=
  let rosterCount := field p 2 1
  let roster := words p 3 rosterCount
  let flagsAt := 3 + 2 * rosterCount
  let flags := byteAt p flagsAt
  let ringAt := flagsAt + 1
  let hasRing := flags.getLsbD 0
  let form := flags.toNat / 2 % 4
  let tiltAt := if hasRing then ringAt + 5 else ringAt
  let listCount := field p tiltAt 1
  let implied := 4 + 2 * rosterCount + (if hasRing then 5 else 0)
    + (if form = 1 then 4 else if form = 2 then 3 + 2 * listCount else 0)
  let tilt : TiltForm :=
    if form = 1 then .uniform (field p tiltAt 2) (field p (tiltAt + 2) 2)
    else if form = 2 then .list (words p (tiltAt + 1) listCount) (field p (tiltAt + 1 + 2 * listCount) 2)
    else .none
  let ring := if hasRing then some (signedOf 24 (field p ringAt 3), field p (ringAt + 3) 2) else none
  if field p 0 2 = 0 ∨ rosterCount = 0 ∨ 4 < rosterCount
      ∨ roster.any (fun t => t == 0 || decide (4095 ≤ t)) = true
      ∨ 8 ≤ flags.toNat ∨ form = 3 ∨ (hasRing = false ∧ form = 0)
      ∨ (form = 2 ∧ (listCount = 0 ∨ 24 < listCount))
      ∨ implied ≠ p.length then none
  else some { id := BitVec.ofNat 16 (field p 0 2), roster, ring, tilt }

/-! ## The configuration record (section 10.1) -/

/-- The group-common fields that have a default: offset, width, default (section 10.1). -/
def defaultFields : List (Nat × Nat × Nat) :=
  [(27, 1, 3), (28, 1, 3), (29, 1, 12), (30, 2, 150), (32, 2, 120), (34, 2, 60), (36, 2, 40), (38, 2, 600),
   (40, 2, 150), (42, 2, 600), (44, 2, 50), (46, 2, 50), (48, 2, 200), (56, 2, 3000), (58, 1, 5), (59, 1, 5),
   (60, 1, 25), (61, 2, 100), (63, 2, 50), (65, 1, 60), (66, 2, 500), (68, 2, 500), (70, 1, 40), (71, 2, 200),
   (73, 1, 30), (74, 1, 10), (75, 1, 15), (76, 1, 0), (77, 1, 1), (78, 2, 128)]

/-- One field's default substitution (R169): a field whose stored bytes are all 0xFF takes its default. -/
def substituteField (l : List Byte) (f : Nat × Nat × Nat) : List Byte :=
  if ((l.drop f.1).take f.2.1).all (fun b => b == 0xFF) then
    l.take f.1 ++ bytesBE f.2.1 f.2.2 ++ l.drop (f.1 + f.2.1)
  else l

/-- The live copy formed from the raw copy (R169). -/
def formLiveCopy (raw : List Byte) : List Byte := defaultFields.foldl substituteField raw

/-- The unsigned fields with a plain range: offset, width, lowest, highest (section 10.1). -/
def rangeFields : List (Nat × Nat × Nat × Nat) :=
  [(0, 1, 1, 1), (1, 2, 1, 4094), (10, 2, 0, 3200), (21, 1, 2, 24), (22, 1, 0, 1), (27, 1, 2, 10), (28, 1, 2, 8),
   (29, 1, 4, 40), (30, 2, 20, 2000), (32, 2, 10, 500), (34, 2, 10, 1000), (36, 2, 5, 500), (38, 2, 50, 1000),
   (40, 2, 10, 1000), (42, 2, 50, 5000), (44, 2, 5, 200), (46, 2, 5, 500), (48, 2, 20, 2000), (56, 2, 100, 3200),
   (58, 1, 1, 100), (59, 1, 1, 100), (60, 1, 5, 250), (61, 2, 10, 2000), (63, 2, 5, 500), (65, 1, 25, 250),
   (66, 2, 125, 2500), (68, 2, 50, 5000), (70, 1, 10, 250), (71, 2, 1, 6120), (73, 1, 0, 200), (74, 1, 0, 200),
   (75, 1, 0, 100), (76, 1, 0, 1), (77, 1, 0, 2), (78, 2, 32, 256)]

namespace Live

/-! The fields of a live copy `l`, by the names of section 10.1. -/

def groupTag (l : List Byte) : Nat := field l 1 2
def listenMask (l : List Byte) : BitVec 32 := BitVec.ofNat 32 (field l 3 4)
def homeOffset (l : List Byte) : Int := signedOf 24 (field l 7 3)
def inclineTolerance (l : List Byte) : Nat := field l 10 2
def attentionMask (l : List Byte) : Byte := byteAt l 12
def ringSize (l : List Byte) : Nat := field l 21 1
def ringClosed (l : List Byte) : Bool := field l 22 1 == 1
def fittedMask (l : List Byte) : Nat := field l 23 4
def isFitted (l : List Byte) (s : Nat) : Bool := (fittedMask l).testBit s
def statusPeriod (l : List Byte) : Nat := field l 27 1
def staleThreshold (l : List Byte) : Nat := field l 28 1 * statusPeriod l
def lostThreshold (l : List Byte) : Nat := field l 29 1 * statusPeriod l
def ringMin (l : List Byte) : Int := signedOf 24 (field l 50 3)
def ringMax (l : List Byte) : Int := signedOf 24 (field l 53 3)
def tiltMax (l : List Byte) : Nat := field l 56 2
def settleTicks (l : List Byte) : Nat := field l 60 1
def permitTicks (l : List Byte) : Nat := field l 65 1
def armTicks (l : List Byte) : Nat := field l 66 2
def pinchTicks (l : List Byte) : Nat := field l 68 2
def brakeTicks (l : List Byte) : Nat := field l 70 1
def supplyBudget (l : List Byte) : Nat := field l 71 2
def ringDemand (l : List Byte) : Nat := field l 73 1
def tiltDemand (l : List Byte) : Nat := field l 74 1
def towShare (l : List Byte) : Nat := field l 75 1
def towPermitted (l : List Byte) : Bool := field l 76 1 == 1
def towMax (l : List Byte) : Nat := field l 77 1
def towDerate (l : List Byte) : Nat := field l 78 2

/-! The fields that come once for each axis. -/

def window (l : List Byte) : Axis → Nat
  | .ring => field l 30 2
  | .tilt => field l 32 2
def skewExcess (l : List Byte) : Axis → Nat
  | .ring => field l 34 2
  | .tilt => field l 36 2
def cruiseMax (l : List Byte) : Axis → Nat
  | .ring => field l 38 2
  | .tilt => field l 44 2
def accel (l : List Byte) : Axis → Nat
  | .ring => field l 40 2
  | .tilt => field l 46 2
def emerg (l : List Byte) : Axis → Nat
  | .ring => field l 42 2
  | .tilt => field l 48 2
def inpos (l : List Byte) : Axis → Nat
  | .ring => field l 58 1
  | .tilt => field l 59 1
def follow (l : List Byte) : Axis → Nat
  | .ring => field l 61 2
  | .tilt => field l 63 2

/-- The soft limits of an axis (R108). -/
def softLimits (l : List Byte) : Axis → Int × Int
  | .ring => (ringMin l, ringMax l)
  | .tilt => (0, tiltMax l)

/-! The configured record of a channel (R158): headers and gains in the main record, offset and limits in the table. -/

def channelEnabled (l : List Byte) (c : Fin 8) : Bool := (byteAt l (13 + c)).getLsbD 0
def channelAction (l : List Byte) (c : Fin 8) : Nat := (byteAt l (13 + c)).toNat / 2 % 4
def channelGain (l : List Byte) (c : Fin 8) : Nat := field l (80 + 2 * c) 2
def channelOffset (l : List Byte) (c : Fin 8) : Int := signedOf 16 (field l (98 + 6 * c) 2)
def channelLo (l : List Byte) (c : Fin 8) : Int := signedOf 16 (field l (100 + 6 * c) 2)
def channelHi (l : List Byte) (c : Fin 8) : Int := signedOf 16 (field l (102 + 6 * c) 2)

end Live

/-- The four channel actions by their codes (section 10.1, bits 2 and 1 of a channel header). -/
def actionReport : Nat := 0
def actionHold : Nat := 1
def actionHalt : Nat := 2
def actionTow : Nat := 3

/-- All eight channels, lowest first. -/
def channels : List (Fin 8) := [0, 1, 2, 3, 4, 5, 6, 7]

/-- The digest of R175: the CRC-16 over the group-common fields, bytes 21 to 79. -/
def digestOf (live : List Byte) : BitVec 16 := crc16 ((live.drop 21).take 59)

/-- The CRC check of both blocks on the raw copy (R170, check 1): 96 bytes and 48 bytes, each followed by its CRC. A list
that is not the 148 bytes of the transfer fails it. -/
def crcGood (raw : List Byte) : Bool :=
  raw.length == 148 && (crc16 (raw.take 96)).toNat == field raw 96 2
    && (crc16 ((raw.drop 98).take 48)).toNat == field raw 146 2

/-- Whether every field of the live copy lies in its range (R170, check 2). A ring_min or ring_max of three 0xFF bytes is erased
and fails, as R169 states, although the bytes read as -1 md (DEDUCED, log entry 30). -/
def fieldsGood (l : List Byte) : Bool :=
  rangeFields.all (fun f => decide (f.2.2.1 ≤ field l f.1 f.2.1) && decide (field l f.1 f.2.1 ≤ f.2.2.2))
    && decide (-360000 ≤ Live.homeOffset l) && decide (Live.homeOffset l ≤ 360000)
    && channels.all (fun c => decide ((byteAt l (13 + c)).toNat < 8) && decide (Live.channelGain l c ≤ 4095)
        && decide (Live.channelLo l c ≤ Live.channelHi l c))
    && decide (Live.fittedMask l < 2 ^ Live.ringSize l)
    && decide (2 ≤ ((List.range 24).filter (Live.isFitted l)).length)
    && decide (field l 28 1 < field l 29 1)
    && decide (-180000 ≤ Live.ringMin l) && decide (Live.ringMin l ≤ 180000)
    && decide (-180000 ≤ Live.ringMax l) && decide (Live.ringMax l ≤ 180000)
    && decide (Live.ringMin l < Live.ringMax l) && [50, 53].all (fun off => field l off 3 != 0xFFFFFF)

/-- The configuration status of a read (R170): the first check that fails gives it. -/
def judgeConfig (raw : List Byte) (straps : BitVec 5) : ConfigStatus :=
  let l := formLiveCopy raw
  if crcGood raw = false then .crc
  else if fieldsGood l = false then .field
  else if Live.ringSize l ≤ straps.toNat ∨ Live.isFitted l straps.toNat = false then .station
  else if channels.any (fun c => decide (c ≠ 1) && Live.channelAction l c == actionTow) then .channel
  else .valid

/-- A bit as its cell (R1): a 1 is high in the first half and low in the second, a 0 low and then high. -/
def lineCell (bit : Bool) : LineCell := { first := bit, second := !bit }

/-- Bytes as cells, the most significant bit of each first (R1). -/
def lineCells (l : List Byte) : List LineCell :=
  l.flatMap (fun b => [7, 6, 5, 4, 3, 2, 1, 0].map (fun i : Nat => lineCell (b.getLsbD i)))

/-- The read command 0x03 and the address 0x0000, clocked out on MSI before the 148 bytes come in on MSO (R169). -/
def readCommand : List Byte := [0x03, 0x00, 0x00]

/-! ## Planner units (00_scope, Conversions; R89) -/

/-- A speed in units per second as a Q16 step per tick. -/
def speedStep (u : Nat) : Nat := u * 262144 / 1000

/-- An acceleration in units per second squared as a Q16 step change per tick. -/
def accelStep (a : Nat) : Nat := a * 1048576 / 1000000

/-- A Q16 step per tick in units per second, signed by the direction (R89). -/
def reportedVelocity (up : Bool) (v : Nat) : Int :=
  if up then ((v * 250 / 65536 : Nat) : Int) else -((v * 250 / 65536 : Nat) : Int)

/-- A Q16 position in whole units: divided by 65536 and rounded toward zero (00_scope, Q16). -/
def wholeUnits (s : Int) : Int := s.tdiv 65536

/-- A value limited to an interval (R105, R110). -/
def limitTo (b : Int × Int) (x : Int) : Int := if x < b.1 then b.1 else if b.2 < x then b.2 else x

end Sys2Proof.Machine
end

