-- ==== Sys2Proof/Machine/Flags.lean ====
section
/-! DEFINITION. The part's flags and derived conditions: fault and hold sets, what a phase allows, the configuration in
force, measured positions, the Peer Table's views (section 3.7), brake commands (R147), drive enables (R142), the hold
causes that should be present (R112) and the attention flag (R155). -/

namespace Sys2Proof.Machine

/-! ## Sets -/

/-- The bit of a fault in the set: its code less one (section 2.2). -/
def FaultKind.bit (k : FaultKind) : Nat := k.code - 1

/-- Whether a fault is latched. -/
def FaultSet.has (f : FaultSet) (k : FaultKind) : Bool := f.getLsbD k.bit

/-- The set with a fault added. -/
def FaultSet.insert (f : FaultSet) (k : FaultKind) : FaultSet := f ||| (1 <<< k.bit)

/-- The set keeping only the faults that satisfy `p`. -/
def FaultSet.keep (f : FaultSet) (p : FaultKind → Bool) : FaultSet :=
  FaultKind.all.foldl (fun g k => if f.has k && p k then FaultSet.insert g k else g) 0

/-- The fault of lowest code in the set (R128). -/
def FaultSet.lowest (f : FaultSet) : Option FaultKind := FaultKind.all.find? (fun k => f.has k)

/-- The bit of a hold cause (section 2.2). -/
def HoldCause.bit : HoldCause → Nat
  | .permit => 0 | .peer => 1 | .personnel => 2 | .stowed => 3 | .monitor => 4

/-- Whether a hold cause is present. -/
def HoldSet.has (h : HoldSet) (c : HoldCause) : Bool := h.getLsbD c.bit

/-- The set holding one cause when `b` holds, and nothing otherwise. -/
def HoldSet.when (c : HoldCause) (b : Bool) : HoldSet := if b then 1 <<< c.bit else 0

/-! ## Phases -/

/-- Outside STARTING and CONFIG_FAULT: the phases in which the configuration is in force, faults are latched (R117) and
hold causes are taken (R112). -/
def Phase.inService : Phase → Bool
  | .starting => false
  | .configFault => false
  | _ => true

/-- MOVING, HOLDING, STOPPING, SETTLING: the phases of R47, R107, R135, R139, R147. -/
def Phase.inMotion : Phase → Bool
  | .moving => true
  | .holding => true
  | .stopping => true
  | .settling => true
  | _ => false

/-- The moving phases of demand: ARMED and the four of motion (R54). -/
def Phase.drawing : Phase → Bool
  | .armed => true
  | p => p.inMotion

/-- The phases in which a peer's entry counts as armed for its current cue (R55). -/
def Phase.countsArmed : Phase → Bool
  | .armed => true
  | .moving => true
  | .holding => true
  | .settling => true
  | .done => true
  | _ => false

namespace Node

/-! ## Access by axis -/

/-- The planner of an axis. -/
def planner (n : Node) : Axis → Planner
  | .ring => n.ring
  | .tilt => n.tilt

/-- Writes the planner of an axis. -/
def setPlanner (n : Node) (a : Axis) (p : Planner) : Node :=
  match a with
  | .ring => { n with ring := p }
  | .tilt => { n with tilt := p }

/-- The drive side of an axis. -/
def axisDrive (n : Node) : Axis → AxisDrive
  | .ring => n.drive.ring
  | .tilt => n.drive.tilt

/-- Writes the drive side of an axis. -/
def setAxisDrive (n : Node) (a : Axis) (d : AxisDrive) : Node :=
  match a with
  | .ring => { n with drive := { n.drive with ring := d } }
  | .tilt => { n with drive := { n.drive with tilt := d } }

/-- The release state of an axis (R76). -/
def release (n : Node) : Axis → Option Release
  | .ring => n.cue.ringRelease
  | .tilt => n.cue.tiltRelease

/-- Writes the release state of an axis. -/
def setRelease (n : Node) (a : Axis) (r : Option Release) : Node :=
  match a with
  | .ring => { n with cue := { n.cue with ringRelease := r } }
  | .tilt => { n with cue := { n.cue with tiltRelease := r } }

/-- The transmit slot of a kind (R11). -/
def slot (n : Node) : SlotKind → Slot
  | .status => n.tx.status
  | .halt => n.tx.halt
  | .report => n.tx.report

/-- Writes a transmit slot. -/
def setSlot (n : Node) (k : SlotKind) (x : Slot) : Node :=
  match k with
  | .status => { n with tx := { n.tx with status := x } }
  | .halt => { n with tx := { n.tx with halt := x } }
  | .report => { n with tx := { n.tx with report := x } }

/-! ## The configuration in force -/

/-- Whether the configuration is in force: the phase is neither STARTING nor CONFIG_FAULT (R173, R174). -/
def inService (n : Node) : Bool := n.cue.phase.inService

/-- The live copy. -/
def live (n : Node) : List Byte := n.cfg.live

/-- The own station index: the sampled straps (R37, R38, R171). -/
def station (n : Node) : Nat := n.cfg.straps.toNat

/-- The own group tag; 0 without a valid configuration (R38, R173). -/
def groupTag (n : Node) : Nat := if n.inService then Live.groupTag n.live else 0

/-- The home offset; 0 without a valid configuration (R144, R173). -/
def homeOffset (n : Node) : Int := if n.inService then Live.homeOffset n.live else 0

/-- The attention mask; 0 without a valid configuration (R155). -/
def attentionMask (n : Node) : Byte := if n.inService then Live.attentionMask n.live else 0

/-- The status period: status_period_ticks, and in CONFIG_FAULT a value the spec leaves unstated (log entry 6). -/
def statusPeriod (n : Node) : Nat :=
  if n.inService then Live.statusPeriod n.live else Config.unconfiguredStatusPeriod

/-- The permit time: permit_ticks, and in CONFIG_FAULT a value the spec leaves unstated (log entry 6). -/
def permitTicks (n : Node) : Nat :=
  if n.inService then Live.permitTicks n.live else Config.unconfiguredPermitTicks

/-- A channel's enable; disabled without a valid configuration (R160, R182). -/
def channelEnabled (n : Node) (c : Fin 8) : Bool := n.inService && Live.channelEnabled n.live c

/-- A channel's action; REPORT without a valid configuration (R182). -/
def channelAction (n : Node) (c : Fin 8) : Nat :=
  if n.inService then Live.channelAction n.live c else actionReport

/-- The live record of a channel (R159). -/
def liveRecord (n : Node) (c : Fin 8) : LiveRecord := n.monitor.live.get c

/-- Whether some channel of the given action is tripped. -/
def trippedWith (n : Node) (action : Nat) : Bool :=
  channels.any (fun c => (n.liveRecord c).tripped && n.channelAction c == action)

/-! ## Inputs and measured positions -/

/-- The level of a discrete input (R150). -/
def level (n : Node) (i : Fin 8) : Bool := n.inputs.levels.getLsbD i

/-- Input 0: the emergency-stop chain is closed. -/
def chainClosed (n : Node) : Bool := n.level 0
/-- Input 1: the upper tilt limit is active. -/
def upLimit (n : Node) : Bool := n.level 1
/-- Input 2: the lower tilt limit is active. -/
def downLimit (n : Node) : Bool := n.level 2
/-- Inputs 3 and 4: the brake of the axis is lifted. -/
def brakeLifted (n : Node) : Axis → Bool
  | .ring => n.level 3
  | .tilt => n.level 4
/-- Input 5: the seats are stowed. -/
def seatsStowed (n : Node) : Bool := n.level 5
/-- Input 6: the deck is clear. -/
def deckClear (n : Node) : Bool := n.level 6
/-- Input 7: the ring power stage is ready. -/
def driveReady (n : Node) : Bool := n.level 7

/-- The measured position of an axis: the held raw value, for the ring plus the home offset, not wrapped (R144). -/
def measured (n : Node) : Axis → Int
  | .ring => n.drive.ring.raw + n.homeOffset
  | .tilt => n.drive.tilt.raw

/-- The attention flag of R155. -/
def attentionNow (n : Node) : Bool :=
  (n.inputs.changed &&& n.attentionMask) != 0 || n.trippedWith actionReport

/-! ## The head -/

/-- The head of the cue queue (R64). -/
def headCue (n : Node) : Option Cue := n.cue.queue.head?

/-- What the head asks of an axis; none when it does not move it or there is no head (R63). -/
def headMove (n : Node) (a : Axis) : Option AxisMove :=
  match n.headCue, a with
  | some c, .ring => c.ring
  | some c, .tilt => c.tilt
  | none, _ => none

/-- Whether the head moves the axis. -/
def headMoves (n : Node) (a : Axis) : Bool := (n.headMove a).isSome

/-- The current cue: the id of the head, 0 when the queue is empty (R52, R64). -/
def currentCue (n : Node) : CueId :=
  match n.headCue with
  | some c => c.id
  | none => 0

/-! ## The ring (R43) -/

end Node

/-- The below neighbour of a station (R43). -/
def RingMap.below (m : RingMap) (s : Nat) : Option Nat :=
  match (m.fitted.filter (fun i => decide (i < s))).getLast? with
  | some i => some i
  | none => if m.closed then (m.fitted.filter (fun i => decide (s < i))).getLast? else none

/-- The above neighbour of a station (R43). -/
def RingMap.above (m : RingMap) (s : Nat) : Option Nat :=
  match (m.fitted.filter (fun i => decide (s < i))).head? with
  | some i => some i
  | none => if m.closed then (m.fitted.filter (fun i => decide (i < s))).head? else none

/-- The ring neighbours of a station: one or two, and one in a closed ring of two (R43). -/
def RingMap.neighbours (m : RingMap) (s : Nat) : List Nat :=
  match m.below s with
  | none => (m.above s).toList
  | some low => low :: (m.above s).toList.filter (· != low)

/-- Whether two stations are ring-adjacent (R43). -/
def RingMap.adjacent (m : RingMap) (a b : Nat) : Bool := a != b && (m.neighbours a).contains b

/-- Whether some two of the given stations are ring-adjacent. -/
def RingMap.anyAdjacent (m : RingMap) (l : List Nat) : Bool := l.any (fun a => l.any (fun b => m.adjacent a b))

namespace Node

/-- The own ring neighbours. -/
def neighbours (n : Node) : List Nat := n.peers.map.neighbours n.station

/-- The entry of a station. -/
def entry (n : Node) (s : Nat) : Option Entry := n.peers.entries.find? (fun e => e.station == s)

/-! ## Views (R48, R55 to R60) -/

/-- The projection of an entry on an axis (R48); an ABSENT entry has none. -/
def projectionOf (n : Node) (a : Axis) (e : Entry) : Option Int :=
  let p := match a with | .ring => e.content.ringPos | .tilt => e.content.tilt
  let u := match a with | .ring => e.content.ringVel | .tilt => e.content.tiltVel
  match e.freshness with
  | .absent => none
  | .fresh => some (p + (u * ((min e.age.toNat n.statusPeriod : Nat) : Int) * 4).tdiv 1000)
  | _ => some p

/-- The projections of the own ring neighbours on an axis. -/
def projections (n : Node) (a : Axis) : List Int :=
  n.neighbours.filterMap (fun s => (n.entry s).bind (n.projectionOf a))

/-- Every fitted entry is FRESH; digest_agree is then decidable (R57). -/
def allFresh (n : Node) : Bool := n.peers.entries.all (fun e => e.freshness == .fresh)

/-- all_armed(c) (R55). -/
def allArmed (n : Node) (c : CueId) : Bool :=
  n.peers.entries.all (fun e => e.freshness == .fresh
    && ((e.content.current == c && e.content.phase.countsArmed) || e.content.lastDone == c))

/-- all_done(c) (R56). -/
def allDone (n : Node) (c : CueId) : Bool :=
  n.peers.entries.all (fun e => e.content.lastDone == c
    || (e.content.current == c && e.content.phase == .done)
    || e.freshness == .lost
    || (e.freshness != .absent && e.content.current != c && e.content.lastDone != c))

/-- digest_agree (R57). -/
def digestAgree (n : Node) : Bool :=
  n.peers.entries.all (fun e => e.freshness != .fresh || e.content.digest == n.cfg.startDigest)

/-- refused_by_peer(c) (R58); the own entry is not consulted. -/
def refusedByPeer (n : Node) (c : CueId) : Bool :=
  n.peers.entries.any (fun e => e.station != n.station && e.freshness == .fresh && e.content.refusal.id == c)

/-- The demand sum (R59). -/
def demandSum (n : Node) : Nat :=
  ((n.peers.entries.filter (fun e => e.freshness == .fresh || e.freshness == .stale)).map
    (fun e => e.content.demand.toNat)).sum

/-- The towed set (R60). -/
def towedSet (n : Node) : List Nat :=
  (n.peers.entries.filter (fun e => e.freshness != .absent && e.content.ringMode == .towed)).map (·.station)

/-- Some peer entry is STALE or LOST (R46). -/
def peerSilent (n : Node) : Bool := n.peers.entries.any (fun e => e.freshness == .stale || e.freshness == .lost)

/-- The towed set breaks the limits of R139: two ring-adjacent stations, or more than tow_max. -/
def towBreach (n : Node) : Bool :=
  n.peers.map.anyAdjacent n.towedSet || decide (Live.towMax n.live < n.towedSet.length)

/-- The demand of R54, capped at 255; a towed ring draws none (R137). -/
def demand (n : Node) : Byte :=
  let drawing := n.cue.phase.drawing
  let ring := drawing && n.headMoves .ring && n.ringMode == .driven
  let towedNeighbours := (n.neighbours.filter (fun s => n.towedSet.contains s)).length
  let sum := (if ring then Live.ringDemand n.live + Live.towShare n.live * towedNeighbours else 0)
    + (if drawing && n.headMoves .tilt then Live.tiltDemand n.live else 0)
  BitVec.ofNat 8 (min sum 255)

/-! ## Holds (R112) -/

/-- The hold causes whose conditions hold (R112). In STARTING and CONFIG_FAULT only PERMIT can be present. -/
def wantedHolds (n : Node) : HoldSet :=
  HoldSet.when .permit n.cue.permit.isNone
    ||| (if n.inService then
          HoldSet.when .peer n.peerSilent
          ||| HoldSet.when .personnel (!n.deckClear)
          ||| HoldSet.when .stowed (!n.seatsStowed && n.headMoves .tilt)
          ||| HoldSet.when .monitor (n.trippedWith actionHold)
        else 0)

/-! ## Brakes and enables (R142, R147, R148) -/

/-- Whether ESTOP is latched. -/
def estopLatched (n : Node) : Bool := n.faults.has .estop

/-- The command of an axis's brake: true for released (R147). -/
def brakeCommand (n : Node) (a : Axis) : Bool :=
  !n.estopLatched && n.headMoves a
    && ((n.cue.phase.inMotion && (n.release a).isSome)
        || (n.cue.phase == .halted && n.cue.ramping && decide (0 < (n.planner a).velocity)
            && (a == .tilt || n.ringMode == .driven)))

/-- Whether a brake's feedback agrees with its output (R148). -/
def brakeAgrees (n : Node) (a : Axis) : Bool := n.brakeLifted a == (n.axisDrive a).released

/-- Whether an axis is commanded enabled on the drive link (R142). -/
def enabled (n : Node) (a : Axis) : Bool :=
  (n.axisDrive a).released && n.chainClosed && (a == .tilt || n.ringMode == .driven)

/-- A tilt limit is active in the direction of travel (R152). -/
def limitStruck (n : Node) : Bool :=
  (n.drive.tilt.released || decide (0 < n.tilt.velocity))
    && ((n.tilt.up && n.upLimit) || (!n.tilt.up && n.downLimit))

/-- A tilt drive failure (R143). -/
def tiltDriveFailed (n : Node) : Bool :=
  !n.drive.reply.tiltReady
    || (decide (1 ≤ n.drive.reply.faultCode.toNat) && decide (n.drive.reply.faultCode.toNat ≤ 127))
    || n.drive.failedExchanges == 2

/-- A ring drive failure (R131). -/
def ringDriveFailed (n : Node) : Bool := (!n.driveReady && n.enabled .ring) || n.trippedWith actionTow

/-- The conditions of the tow decision (R132). -/
def towAllowed (n : Node) : Bool :=
  let others := n.towedSet.filter (fun s => s != n.station)
  Live.towPermitted n.live
    && (n.peers.map.closed || n.neighbours.length == 2)
    && decide (others.length < Live.towMax n.live)
    && !(n.neighbours.any (fun s => n.towedSet.contains s))

/-! ## CLEAR conditions (R127) -/

/-- Whether a latched fault's condition is absent. TOW is read from the towed set as last built and taken, and by the fault part
of a CLEAR as that CLEAR found it, whatever its tow part has brought on since (R127, log entry 27). -/
def faultAbsent (n : Node) : FaultKind → Bool
  | .estop => n.chainClosed
  | .limit => !n.upLimit && !n.downLimit
  | .drive => n.driveReady
  | .sensor => n.drive.ring.readFails == 0 && n.drive.tilt.readFails == 0
  | .brake => n.brakeAgrees .ring && n.brakeAgrees .tilt
  | .monitor => !n.trippedWith actionHalt
  | .config => n.cfg.lastDigest == n.cfg.startDigest
  | .address => decide (Live.lostThreshold n.live < n.rx.clashAge.toNat)
  | .peerLost => !(n.peers.entries.any (fun e => e.freshness == .lost))
  | .tow => !n.rx.head.breach.getD n.towBreach
  | .follow => true
  | .pinch => true
  | .skew => true

end Node

end Sys2Proof.Machine
end

