-- ==== Sys2Proof/Machine/Ops.lean ====
section
/-! DEFINITION. The shared operations on the part: counting, status events, the transmit slots (R11 to R14), retiring cues
(R65), latching faults and entering HALTED (R117 to R121, R125), phase changes, brake changes (R148), the consequences a
step brings with it, and the build of the own STATUS (R51). -/

namespace Sys2Proof.Machine

namespace Node

/-! ## Status events and counts -/

/-- Marks a status event (R50); in STARTING none is recorded (R51). -/
def note (n : Node) : Node := if n.cue.phase = .starting then n else { n with statusEvent := true }

/-- Writes the last refusal record (R71); the same id and reason again is no event. -/
def setRefusal (id : CueId) (r : CueReason) (n : Node) : Node :=
  if n.cue.refusal = { id, reason := r } then n
  else { n with cue := { n.cue with refusal := { id, reason := r } } }.note

/-- Writes the hold cause set (R112); an unchanged set is no event. -/
def setHolds (h : HoldSet) (n : Node) : Node :=
  if n.cue.holds = h then n else { n with cue := { n.cue with holds := h } }.note

/-- Changes the phase: a status event (R50, R62). Entering IDLE, DONE or HALTED clears the release states (R76); leaving
ARMED stops the arm timer where it stands (R73). -/
def setPhase (p : Phase) (n : Node) : Node :=
  let c := { n.cue with phase := p, armRunning := false }
  let c := if p = .idle ∨ p = .done ∨ p = .halted then { c with ringRelease := none, tiltRelease := none } else c
  { n with cue := c }.note

/-- Removes a mark that a tick has set. -/
def dropDue (d : Due) (n : Node) : Node := { n with due := n.due.filter (fun x => x != d) }

/-- The start value of a timer: one less when the tick's lowering of it is still outstanding (log entry 1). -/
def startValue (n : Node) (d : Due) (ticks : Nat) : Nat := if n.due.contains d then ticks - 1 else ticks

/-! ## Transmit slots (R11 to R14) -/

end Node

/-- A slot holding a new frame, PENDING with collision count 0. -/
def Slot.fresh (content : List Byte) : Slot := { state := .pending, content, collisions := 0, replaced := false }

namespace Node

/-- A newly built STATUS at the STATUS slot (R12). -/
def fillStatus (frame : List Byte) (n : Node) : Node :=
  let x := n.tx.status
  match x.state with
  | .empty => { n with tx := { n.tx with status := Slot.fresh frame } }
  | .sending =>
    { n with tx := { n.tx with status := { x with content := frame, replaced := true } }
             counters := { n.counters with statusOverruns := n.counters.statusOverruns.bump } }
  | _ =>
    { n with tx := { n.tx with status := { x with content := frame } }
             counters := { n.counters with statusOverruns := n.counters.statusOverruns.bump } }

/-- A HALT request with the own group as destination and the own station as origin (R13, R119 to R121): placed into an
EMPTY slot under the HALT count, which then advances, or absorbed and counted as merged. -/
def requestHalt (k : FaultKind) (n : Node) : Node :=
  if n.tx.halt.state = .empty then
    let frame := header 4 2 n.groupTag n.groupTag n.station n.cue.haltCount
      ++ [BitVec.ofNat 8 k.code, BitVec.ofNat 8 n.station]
    { n with tx := { n.tx with halt := Slot.fresh frame }
             cue := { n.cue with haltCount := n.cue.haltCount + 1 } }
  else { n with counters := { n.counters with haltsMerged := n.counters.haltsMerged.bump } }

/-! ## The cue queue and the retired list (R64, R65) -/

/-- Pushes a record onto the retired list, which keeps its newest four, and counts its outcome (R65). -/
def pushRetired (id : CueId) (how : CueEnd) (n : Node) : Node :=
  let l := n.cue.retired ++ [Retired.mk id how]
  let c := n.counters
  let c := match how with
    | .done => { c with retiredDone := c.retiredDone.bump }
    | .failed => { c with retiredFailed := c.retiredFailed.bump }
    | .cancelled => { c with retiredCancelled := c.retiredCancelled.bump }
  { n with cue := { n.cue with retired := l.drop (l.length - 4) }, counters := c }

/-- Removes the head from the queue and retires it (R64, R65); nothing without a head. -/
def retireHead (how : CueEnd) (n : Node) : Node :=
  match n.cue.queue with
  | [] => n
  | c :: rest => pushRetired c.id how { n with cue := { n.cue with queue := rest } }

/-- The head fails: retired FAILED, the refusal record written with the reason, phase IDLE (R72 to R74). -/
def failHead (r : CueReason) (n : Node) : Node :=
  let id := n.currentCue
  let m := setRefusal id r (retireHead .failed n)
  if m.cue.phase = .idle then m else setPhase .idle m

/-- Sets or clears the head's interrupted mark (R85). -/
def markHead (b : Bool) (n : Node) : Node :=
  match n.cue.queue with
  | [] => n
  | c :: rest => { n with cue := { n.cue with queue := { c with interrupted := b } :: rest } }

/-! ## Halts and faults (R117 to R125) -/

/-- Entering HALTED, the same for a latched fault and for a received HALT (R118). The brakes follow by R147. -/
def enterHalted (n : Node) : Node :=
  let n := if n.cue.phase = .stopping then retireHead .cancelled n else markHead true n
  let n := setPhase .halted n
  { n with cue := { n.cue with ramping := decide (0 < n.ring.velocity) || decide (0 < n.tilt.velocity) } }

/-- Writes the halt record (R124). -/
def writeHaltRecord (origin : Nat) (reason : HaltReason) (n : Node) : Node :=
  { n with cue := { n.cue with haltRecord := some { origin, reason } } }

/-- A fault is raised to the Fault Latches (R117): not latched in STARTING or CONFIG_FAULT, nothing when already latched;
otherwise it joins the set, ESTOP sets both velocity memories to 0 (R125), and the wagon halts itself (R119) or, already
HALTED, requests a HALT frame (R120). -/
def raise (k : FaultKind) (n : Node) : Node :=
  if n.inService = false ∨ n.faults.has k = true then n
  else
    let n := { n with faults := n.faults.insert k }.note
    let n := if k = .estop then
        { n with ring := { n.ring with velocity := 0 }, tilt := { n.tilt with velocity := 0 } } else n
    if n.cue.phase = .halted then requestHalt k n
    else requestHalt k (writeHaltRecord n.station (.fault k) (enterHalted n))

/-- Raises a fault when a condition holds. -/
def raiseIf (b : Bool) (k : FaultKind) (n : Node) : Node := if b then raise k n else n

/-- Tow supervision (R139): in a ring-moving phase of motion the towed set is judged, and TOW raised. The chapter's worked example
has a wagon already HALTED by another's HALT frame latch TOW at the STATUS it then takes; R139 judges the towed set in the four
phases of motion alone and is followed (DEDUCED, log entry 32). -/
def superviseTow (n : Node) : Node :=
  raiseIf (n.cue.phase.inMotion && n.headMoves .ring && n.towBreach) .tow n

/-! ## Brakes (R147 to R149) -/

/-- The report that a brake has been released: a RELEASING axis becomes RELEASED (R149). -/
def reportReleased (a : Axis) (n : Node) : Node :=
  if n.release a = some .releasing then n.setRelease a (some .released) else n

/-- The supervision passes to AGREED, and reports a released brake (R148, R149). -/
def brakeAgreed (a : Axis) (n : Node) : Node :=
  let n := n.setAxisDrive a { n.axisDrive a with supervision := .agreed }
  if (n.axisDrive a).released then reportReleased a n else n

/-- The command of a brake changes (R147, R148): the output follows; a supervised brake is AGREED if the feedback already
agrees, and CHANGING with timer brake_ticks otherwise. A brake_ticks that an upset has made 0 leaves the timer at 0, where BRAKE
is raised at the next tick while the feedback disagrees (DESIGN CHOICE, log entry 28). -/
def changeBrake (a : Axis) (n : Node) : Node :=
  let d := n.axisDrive a
  let n := n.setAxisDrive a { d with released := !d.released }
  if d.supervision = .unsupervised then n
  else if n.brakeAgrees a then brakeAgreed a n
  else
    let t := n.startValue (.brake a) (Live.brakeTicks n.live)
    dropDue (.brake a)
      (n.setAxisDrive a { n.axisDrive a with supervision := .changing, brakeTimer := t })

/-! ## The start and the end of a move (R76, R77, R80, R83, R91, R100) -/

/-- An axis the head moves fixes its target and direction at the entry to MOVING, and its brake is to be released
(R76, R91). -/
def startAxis (a : Axis) (n : Node) : Node :=
  match n.headMove a with
  | none => n
  | some m =>
    let p := n.planner a
    let t := m.target * 65536
    (n.setPlanner a { p with target := t, up := decide (p.setpoint ≤ t), velocity := 0, pinch := 0 }).setRelease a
      (some .releasing)

/-- MOVING is entered from ARMED (R75, R76, R85, R91, R139). -/
def enterMoving (n : Node) : Node :=
  superviseTow (setPhase .moving (startAxis .tilt (startAxis .ring (markHead false n))))

/-- Whether an axis the head moves has arrived (R77); a towed ring axis is judged by its measured position, at ticks
(R106). -/
def axisArrived (tick : Bool) (a : Axis) (n : Node) : Bool :=
  !n.headMoves a
    || (n.release a == some .released
        && (if a == .ring && n.ringMode == .towed then
              tick && decide ((n.measured .ring - wholeUnits n.ring.target).natAbs ≤ Live.inpos n.live .ring)
            else (n.planner a).setpoint == (n.planner a).target))

/-- Sets the velocity memory of an axis the head moves to 0 (R100). -/
def restAxis (a : Axis) (n : Node) : Node :=
  if n.headMoves a then n.setPlanner a { n.planner a with velocity := 0 } else n

/-- SETTLING is entered (R77, R100). -/
def enterSettling (n : Node) : Node :=
  let n := setPhase .settling n
  let n := dropDue .settle n
  restAxis .tilt (restAxis .ring { n with cue := { n.cue with settleCount := 0 } })

/-- Whether every axis the head moves is at rest (R83, R104). -/
def headAtRest (n : Node) : Bool :=
  (!n.headMoves .ring || n.ring.velocity == 0) && (!n.headMoves .tilt || n.tilt.velocity == 0)

/-- The head is retired DONE (R80). -/
def retireDone (n : Node) : Node :=
  let id := n.currentCue
  let n := retireHead .done n
  setPhase .idle { n with cue := { n.cue with lastDone := id } }

/-- ARMED is entered and the arm timer started (R72, R73). -/
def enterArmed (n : Node) : Node :=
  let n := setPhase .armed n
  let t := n.startValue .arm (Live.armTicks n.live)
  dropDue .arm { n with cue := { n.cue with arm := t, armRunning := true } }

/-! ## Consequences -/

end Node

/-- What follows of itself, within the step, once its conditions hold together. -/
inductive Consequence where
  /-- A brake output follows its command (R147). -/
  | brake (a : Axis)
  /-- The hold causes are kept in step (R112, R113). -/
  | holds
  /-- The head is armed, or failed with CONFIG (R72). -/
  | arming
  /-- A peer's refusal fails the armed head (R74). -/
  | refusal
  /-- The start agreement (R75). -/
  | start
  /-- MOVING passes to HOLDING (R114). -/
  | hold
  /-- MOVING passes to SETTLING (R77). -/
  | arrival
  /-- HOLDING returns to MOVING (R115). -/
  | resume
  /-- The stop of STOPPING is complete (R83). -/
  | stop
  /-- The head is retired DONE (R80). -/
  | retirement
  /-- HALTED passes from ramping to stopped (R122). -/
  | rampEnd
  deriving DecidableEq, Repr

namespace Node

/-- The change of phase, if any, whose conditions hold together in the present phase. -/
def phaseConsequence (tick : Bool) (n : Node) : Option Consequence :=
  match n.cue.phase with
  | .starting => none
  | .configFault => none
  | .idle => if n.headCue.isSome && n.faults == 0 && n.allFresh then some .arming else none
  | .armed =>
    if n.refusedByPeer n.currentCue then some .refusal
    else if n.allArmed n.currentCue && n.cue.permit.isSome && n.cue.holds == 0 then some .start
    else none
  | .moving =>
    if n.cue.holds != 0 then some .hold
    else if n.axisArrived tick .ring && n.axisArrived tick .tilt then some .arrival
    else none
  | .holding => if n.cue.holds == 0 && n.allFresh && n.cue.permit.isSome then some .resume else none
  | .stopping => if n.headAtRest then some .stop else none
  | .settling => none
  | .done => if n.allDone n.currentCue then some .retirement else none
  | .halted => if n.cue.ramping && n.ring.velocity == 0 && n.tilt.velocity == 0 then some .rampEnd else none

/-- The consequence that comes next, if there is one. -/
def nextConsequence (tick : Bool) (n : Node) : Option Consequence :=
  if n.brakeCommand .ring != n.drive.ring.released then some (.brake .ring)
  else if n.brakeCommand .tilt != n.drive.tilt.released then some (.brake .tilt)
  else if n.wantedHolds != n.cue.holds then some .holds
  else n.phaseConsequence tick

/-- What a consequence does. -/
def applyConsequence : Consequence → Node → Node
  | .brake a => changeBrake a
  | .holds => fun n => setHolds n.wantedHolds n
  | .arming => fun n => if n.digestAgree then enterArmed n else failHead .config n
  | .refusal => failHead .peerRefused
  | .start => enterMoving
  | .hold => setPhase .holding
  | .arrival => enterSettling
  | .resume => setPhase .moving
  | .stop => fun n => setPhase .idle (retireHead .cancelled n)
  | .retirement => retireDone
  | .rampEnd => fun n => { n with cue := { n.cue with ramping := false } }.note

/-- Follows the consequences until none is left, within a bound no chain reaches (log entry 9). -/
def settle (tick : Bool) : Nat → Node → Node
  | 0, n => n
  | fuel + 1, n =>
    match nextConsequence tick n with
    | none => n
    | some c => settle tick fuel (applyConsequence c n)

/-- All the consequences of what has happened. -/
def settled (tick : Bool) (n : Node) : Node := settle tick (Config.chainBound n.cue.queue.length) n

/-! ## The own STATUS (R50 to R53) -/

/-- The content of the own entry, each field from the block that owns it (R52, R53). -/
def ownContent (n : Node) : Content :=
  { phase := n.cue.phase
    ringMode := n.ringMode
    attention := n.inputs.attention
    haltedRamping := n.cue.phase == .halted && n.cue.ramping
    holds := n.cue.holds
    faults := n.faults
    current := n.currentCue
    lastDone := n.cue.lastDone
    ringPos := n.measured .ring
    ringVel := reportedVelocity n.ring.up n.ring.velocity
    tilt := n.measured .tilt
    tiltVel := reportedVelocity n.tilt.up n.tilt.velocity
    demand := n.demand
    digest := n.cfg.startDigest
    refusal := n.cue.refusal }

/-- Replaces the entry of a station. -/
def putEntry (s : Nat) (e : Entry) (n : Node) : Node :=
  { n with peers := { n.peers with entries := n.peers.entries.map (fun x => if x.station == s then e else x) } }

/-- Builds the own STATUS (R51): the sequence, the own entry, the frame, the slot, the allowance, the pending mark and the
period timer, in that order; a changed own ring mode is then judged by R139. -/
def build (n : Node) : Node :=
  let seq := n.peers.ownSeq + 1
  let towed := n.towedSet
  let c := n.ownContent
  let n := putEntry n.station
    { station := n.station, freshness := .fresh, age := 0, lastSeq := seq, content := c } n
  let n := fillStatus (header 1 24 n.groupTag n.groupTag n.station seq ++ statusPayload c) n
  let n := { n with peers := { n.peers with ownSeq := seq, allowance := false, pendingBuild := false
                                            timer := some n.statusPeriod } }
  let n := dropDue .statusPeriod n
  if n.towedSet = towed then n else superviseTow n

/-- Ends a step: its consequences, then the build its status events ask for (R50) and the consequences of that build. A
status event with the allowance used up leaves a build pending. Several events of one step make one build (R115). -/
def finish (tick : Bool) (n : Node) : Node :=
  let n := settled tick n
  if n.statusEvent || (tick && n.peers.pendingBuild) then
    if n.peers.allowance then
      let n := settled tick (build { n with statusEvent := false })
      if n.statusEvent then { n with statusEvent := false, peers := { n.peers with pendingBuild := true } } else n
    else { n with statusEvent := false, peers := { n.peers with pendingBuild := true } }
  else n

/-! ## Delivering HALTs (R21, R29, R123) -/

/-- A HALT delivered to the halt logic (R123): counted accepted and received; outside HALTED and CONFIG_FAULT it halts the
wagon and writes the halt record. -/
def takeHalt (m : HaltMessage) (n : Node) : Node :=
  let n := { n with counters := { n.counters with
    accepted := n.counters.accepted.bump, haltsReceived := n.counters.haltsReceived.bump } }
  if n.inService && n.cue.phase != .halted then writeHaltRecord m.origin m.reason (enterHalted n) else n

/-- Delivers the oldest accepted HALT not yet delivered. -/
def deliverHalt (n : Node) : Node :=
  match n.rx.halts with
  | [] => n
  | m :: rest => takeHalt m { n with rx := { n.rx with halts := rest } }

/-- Delivers every accepted HALT not yet delivered, each as a step of its own. -/
def deliverHalts (n : Node) : Node := n.rx.halts.foldl (fun m _ => finish false (deliverHalt m)) n

end Node

/-- A step of the part: nothing while RSTN is held low (R171); otherwise any accepted HALT still undelivered comes first
(R21), then the step's own effect, its consequences and its build. -/
def takeStep (effect : Node → Node) (s : State) : Host.Outcome State Fault Refusal :=
  .next (if s.node.rstnLow then s
    else { s with node := Node.finish false (effect (Node.deliverHalts s.node)) })

end Sys2Proof.Machine
end

