-- ==== Sys2Proof/Machine/Drive.lean ====
section
/-! DEFINITION. The Drive and Sensor Interface's own commands: DRIVE_EXCHANGE_COMPLETE (R141) and SENSOR_READ_COMPLETE
(R144, R145). -/

namespace Sys2Proof.Machine

namespace Node

/-- A good reply (R141): complete, its check correct, its echo equal to the setpoints sent. -/
def replyGood (n : Node) (r : DriveReply) : Bool :=
  r.checkCorrect && r.echoRing == n.drive.request.ringSetpoint && r.echoTilt == n.drive.request.tiltSetpoint

/-- DRIVE_EXCHANGE_COMPLETE (R141), of the exchange under way: a good reply is held as the last reply and the failed count
set to 0; otherwise the last reply is kept and the count goes up, saturating at 2. -/
def completeExchange (reply : Option DriveReply) (n : Node) : Node :=
  if n.drive.exchanging then
    let failed := { n with drive := { n.drive with
      exchanging := false, failedExchanges := min 2 (n.drive.failedExchanges + 1) } }
    match reply with
    | none => failed
    | some r =>
      if n.replyGood r then
        { n with drive := { n.drive with
          exchanging := false, failedExchanges := 0
          reply := { ringReady := r.ringReady, tiltReady := r.tiltReady, faultCode := r.faultCode } } }
      else failed
  else n

/-- SENSOR_READ_COMPLETE (R144, R145), of the read under way: a good value is held and the failure count set to 0; a failed
read keeps the value, is counted, and with the count at 2 raises SENSOR. -/
def completeRead (a : Axis) (value : Option Int) (n : Node) : Node :=
  let d := n.axisDrive a
  if d.reading then
    match value with
    | some v => n.setAxisDrive a { d with reading := false, raw := v, readFails := 0 }
    | none =>
      let fails := min 2 (d.readFails + 1)
      let n := n.setAxisDrive a { d with reading := false, readFails := fails }
      let n := { n with counters := { n.counters with sensorFailures := n.counters.sensorFailures.bump } }
      raiseIf (fails == 2) .sensor n
  else n

end Node

/-! ## The meanings -/

/-- DRIVE_EXCHANGE_COMPLETE (R141). -/
def execDriveExchangeComplete (reply : Option DriveReply) (s : State) : Host.Outcome State Fault Refusal :=
  takeStep (Node.completeExchange reply) s

/-- SENSOR_READ_COMPLETE (R144). -/
def execSensorReadComplete (sensor : Axis) (value : Option Int) (s : State) : Host.Outcome State Fault Refusal :=
  takeStep (Node.completeRead sensor value) s

end Sys2Proof.Machine
end

