-- ==== Sys2Proof/Machine/Line.lean ====
section
/-! DEFINITION. The Line Unit's commands: BURST_START, START_BYTE_FOUND, FRAME_END with the receive judgement (R16 to R18)
and the acceptance filter (R26, R32 to R38), FRAME_COMPLETE (R20, R39), and the transmit side ARBITER_START,
TRANSMIT_SUCCESS, COLLISION, JAM_END, BACKOFF_END (R4 to R15). -/

namespace Sys2Proof.Machine

/-! ## The acceptance filter -/

/-- The destination classes of R32. -/
inductive DestClass where
  | allCall | ownGroup | listened | foreign
  deriving DecidableEq, Repr

/-- What the filter decides of a frame. -/
inductive Verdict where
  | filtered | unexpectedStation | accepted
  deriving DecidableEq, Repr

/-- The listen hash of a tag (R33). -/
def listenHash (t : Nat) : Nat := (t % 32) ^^^ (t / 32 % 32) ^^^ (t / 1024)

namespace Node

/-- The class of a destination tag (R32); in CONFIG_FAULT no frame is listened (R38). -/
def classOf (n : Node) (dest : Nat) : DestClass :=
  if dest = 4095 then .allCall
  else if dest = n.groupTag then .ownGroup
  else if n.inService && (Live.listenMask n.live).getLsbD (listenHash dest) then .listened
  else .foreign

/-- The group test of a PERMIT (R36). -/
def permitNames (n : Node) (cls : DestClass) (p : List Byte) : Bool :=
  cls == .ownGroup || (words p 1 (field p 0 1)).contains n.groupTag

/-- The kind-specific checks (R34 to R38) on a frame of an all-call, own-group or listened class. -/
def kindVerdict (n : Node) (cls : DestClass) (f : List Byte) : Verdict :=
  let p := framePayload f
  let len := frameLength f
  let pass (b : Bool) : Verdict := if b then .accepted else .filtered
  match frameKind f with
  | 1 =>
    if cls != .ownGroup || !n.inService || len != 24 || (Phase.ofCode (field p 0 1)).isNone
        || (CueReason.ofCode (field p 23 1)).isNone || frameSource f != n.groupTag then .filtered
    else if decide (Live.ringSize n.live ≤ frameStation f) || !Live.isFitted n.live (frameStation f) then
      .unexpectedStation
    else .accepted
  | 2 => pass (decide (10 ≤ len) && decide (len ≤ 68))
  | 3 => pass (len == 1 + 2 * field p 0 1 && decide (1 ≤ field p 0 1) && decide (field p 0 1 ≤ 8) && n.permitNames cls p)
  | 4 => pass (len == 2)
  | 5 => pass (len == 3)
  | 6 => pass (len == 2)
  | 7 => pass (cls == .ownGroup && len == 3 && field p 0 1 == n.station)
  | 9 => pass (cls == .ownGroup && len == 1 && field p 0 1 == n.station)
  | _ => .filtered

/-- The acceptance filter (R26, R32, R34): the header, the class, then the checks of the kind. -/
def filterVerdict (n : Node) (f : List Byte) : Verdict :=
  if frameVersion f != 1 || frameKind f == 0 || decide (10 ≤ frameKind f) || decide (4096 ≤ frameDestWord f)
      || decide (4096 ≤ frameSourceWord f) || decide (31 < frameStation f) then .filtered
  else match n.classOf (frameDest f) with
    | .foreign => .filtered
    | .listened => if frameKind f == 2 then n.kindVerdict .listened f else .filtered
    | cls => n.kindVerdict cls f

/-! ## The receive judgement -/

/-- Counts a receive outcome (R22). -/
def countFiltered (n : Node) : Node := { n with counters := { n.counters with filtered := n.counters.filtered.bump } }

/-- An accepted frame other than a HALT at the receive queue (R19): appended, or missed when eight are held. -/
def enqueue (f : List Byte) (n : Node) : Node :=
  if n.rx.queue.length < 8 then { n with rx := { n.rx with queue := n.rx.queue ++ [f] } }
  else { n with counters := { n.counters with missed := n.counters.missed.bump } }

/-- An accepted HALT goes past the queue to the halt logic (R21), decoded as R29 gives. -/
def bypass (f : List Byte) (n : Node) : Node :=
  let p := framePayload f
  { n with rx := { n.rx with halts := n.rx.halts ++
      [HaltMessage.mk (HaltReason.ofCode (field p 0 1)) (min (field p 1 1) 31)] } }

/-- An address clash (R18): ADDRESS raised, the clash age 0, nothing counted. -/
def addressClash (n : Node) : Node := { (raise .address n) with rx := { (raise .address n).rx with clashAge := 0 } }

/-- Whether a frame bears this node's own tag and station (R18), in a phase that checks it. -/
def clashes (n : Node) (f : List Byte) : Bool :=
  n.inService && frameSource f == n.groupTag && frameStation f == n.station

/-- The CRC step of R16: whether the frame is in error. -/
def crcBad (n : Node) : Bool :=
  let b := n.rx.byteCount
  decide (210 < b) || n.rx.partialByte || b != frameLength n.rx.store + 10
    || (crc16 (n.rx.store.take (b - 2))).toNat != field n.rx.store (b - 2) 2

/-- The judgement of a frame whose end has been detected (R16); `own` says the burst is one of the node's own (R17). -/
def judge (own : Bool) (n : Node) : Node :=
  let f := n.rx.store.take (n.rx.byteCount - 2)
  if n.rx.byteCount < 10 then
    if own then n else { n with counters := { n.counters with runt := n.counters.runt.bump } }
  else if n.crcBad then
    if own then n else { n with counters := { n.counters with crcError := n.counters.crcError.bump } }
  else if own then n
  else if n.clashes f then addressClash n
  else if n.cue.phase = .starting then countFiltered n
  else match n.filterVerdict f with
    | .filtered => countFiltered n
    | .unexpectedStation =>
      { n with counters := { n.counters with unexpectedStation := n.counters.unexpectedStation.bump } }
    | .accepted => if frameKind f = 4 then bypass f n else enqueue f n

/-- BURST_START (R2): in QUIET, a cell with a transition begins a burst; it is the node's own when the node drives TXD, or
drove a cell of it before a reset cut its frame (R17, R24). -/
def burstStart (n : Node) : Node :=
  if n.rx.mode = .quiet then
    { n with rx := { n.rx with mode := .hunt, quietTime := 0, ownBurst := n.rx.ownBurst || !n.tx.driving.isEmpty } }
  else n

/-- START_BYTE_FOUND (R2): in HUNT, the window holds 0xC3. -/
def startByteFound (n : Node) : Node :=
  if n.rx.mode = .hunt then
    { n with rx := { n.rx with mode := .collect, window := 0xC3, store := [], byteCount := 0, partialByte := false } }
  else n

/-- FRAME_END (R2, R3, R16): the quiet time reaches 8. In HUNT the burst was a fragment and is discarded; in COLLECT the
frame is judged on its first 210 bytes and its byte count, which holds at 211. -/
def frameEnd (bytes : List Byte) (partialByte : Bool) (n : Node) : Node :=
  match n.rx.mode with
  | .quiet => n
  | .hunt => { n with rx := { n.rx with mode := .quiet, quietTime := 8, ownBurst := false } }
  | .collect =>
    judge n.rx.ownBurst
      { n with rx := { n.rx with
          mode := .quiet, quietTime := 8, ownBurst := false, store := bytes.take 210
          byteCount := min 211 bytes.length, partialByte } }

/-! ## The frame processor -/

/-- The frame at the head of the queue is finished with, and counts as given (R39). -/
def setFate (x : FrameFate) (n : Node) : Node := { n with rx := { n.rx with head := { n.rx.head with fate := some x } } }

/-- A CUE record that the frame processor discards (R40, R41): malformed, or, outside CONFIG_FAULT, its roster does not
name the own group. -/
def cueDiscarded (n : Node) (f : List Byte) : Bool :=
  match readCue (framePayload f) with
  | none => true
  | some r => n.inService && !r.roster.contains n.groupTag

/-- The fate with which the head of the queue can be completed, once its owners have finished with it. A CUE that reaches
no owner is finished with as it stands (R40, R41). -/
def headFate (n : Node) : Option FrameFate :=
  match n.rx.queue with
  | [] => none
  | f :: _ =>
    match n.rx.head.fate with
    | some x => some x
    | none => if frameKind f = 2 ∧ n.cueDiscarded f = true then some .filtered else none

/-- Counts the outcome of a completed frame (R22, R39). -/
def countFate (x : FrameFate) (n : Node) : Node :=
  let c := n.counters
  { n with counters := match x with
    | .accepted => { c with accepted := c.accepted.bump }
    | .filtered => { c with filtered := c.filtered.bump }
    | .old => { c with old := c.old.bump } }

/-- FRAME_COMPLETE (R20): the head is removed, counted, and the next oldest frame taken. -/
def frameComplete (n : Node) : Node :=
  match n.headFate with
  | none => n
  | some x => countFate x { n with rx := { n.rx with queue := n.rx.queue.tail, head := .initial } }

/-! ## The transmit side -/

end Node

/-- The defer time of a slot, in bit-times (R4). -/
def deferTime : SlotKind → Nat
  | .halt => 12
  | .status => 24
  | .report => 24

/-- The cells of a transmission: preamble, start byte, frame bytes, CRC (R1, R5). -/
def transmission (content : List Byte) : List LineCell :=
  lineCells ([0x55, 0x55, 0xC3] ++ content ++ bytesBE 2 (crc16 content).toNat)

/-- The 32 cells of the jam, alternating and beginning with a 1 (R7). -/
def jamCells : List LineCell := lineCells [0xAA, 0xAA, 0xAA, 0xAA]

/-- One step of the random source (R9). -/
def randomStep (g : BitVec 16) : BitVec 16 := if g.getLsbD 0 then (g >>> 1) ^^^ 0xB400 else g >>> 1

namespace Node

/-- The slot whose frame or jam is on the line (R11). -/
def sendingSlot (n : Node) : Option SlotKind :=
  [SlotKind.halt, .status, .report].find? (fun k => (n.slot k).state == .sending)

/-- The slot the arbiter starts at a quiet time (R15): the first PENDING one whose defer is met, HALT before STATUS before
REPORT. -/
def arbiterChoice (n : Node) (quiet : Nat) : Option SlotKind :=
  [SlotKind.halt, .status, .report].find? (fun k => (n.slot k).state == .pending && decide (deferTime k ≤ quiet))

/-- The node's own cells are not quiet: the quiet time is 0 while it drives the line and when it stops (R1). -/
def ownCells (n : Node) : Node := { n with rx := { n.rx with quietTime := 0 } }

/-- The quiet time at a cell boundary at which nothing is driven: quiet cells only raise it, so a command that gives less than
the receiver has counted since the last burst leaves it (R1, log entry 13). -/
def quietAt (n : Node) (quiet : BitVec 8) : BitVec 8 := if quiet.toNat ≤ n.rx.quietTime.toNat then n.rx.quietTime else quiet

/-- A slot's frame goes onto the line (R5, R15). -/
def startSlot (k : SlotKind) (n : Node) : Node :=
  let x := n.slot k
  let n := n.setSlot k { x with state := .sending, replaced := false }
  ownCells { n with tx := { n.tx with driving := transmission x.content }, rx := { n.rx with ownBurst := true } }

/-- ARBITER_START (R15): a cell boundary at which the node does not drive the line, at the given quiet time; nothing is
started in STARTING, nor inside a burst, where the quiet time is below 8. -/
def arbiterStart (quiet : BitVec 8) (n : Node) : Node :=
  if n.sendingSlot.isSome || n.rx.mode != .quiet then n
  else
    let n := { n with rx := { n.rx with quietTime := n.quietAt quiet } }
    if n.cue.phase = .starting then n
    else match n.arbiterChoice n.rx.quietTime.toNat with
      | none => n
      | some k => startSlot k n

/-- The frame of a slot has left the line, sent or dropped: a replaced content stays as a new frame, otherwise the slot is
EMPTY (R12 to R14); the quiet time counts from the node's last cell on (R4). -/
def releaseSlot (k : SlotKind) (n : Node) : Node :=
  let x := n.slot k
  let n := n.setSlot k (if x.replaced then Slot.fresh x.content else Slot.initial)
  ownCells { n with tx := { n.tx with driving := [], jam := none } }

/-- Counts a frame sent (R5). -/
def countSent (k : SlotKind) (n : Node) : Node :=
  let c := n.counters
  { n with counters := match k with
    | .status => { c with statusSent := c.statusSent.bump }
    | .halt => { c with haltSent := c.haltSent.bump }
    | .report => { c with reportSent := c.reportSent.bump } }

/-- TRANSMIT_SUCCESS (R5): the last CRC cell is sent without a collision. -/
def transmitSuccess (n : Node) : Node :=
  match n.sendingSlot, n.tx.jam with
  | some k, none => countSent k (releaseSlot k n)
  | _, _ => n

/-- Whether a collision at a cell is late: cell 64 or later after the start byte (R6). -/
def collisionLate (cell : Option Nat) : Bool :=
  match cell with
  | some c => decide (64 ≤ c)
  | none => false

/-- COLLISION (R6): sending stops, the collision is counted, and the jam begins. -/
def collision (cell : Option Nat) (n : Node) : Node :=
  match n.sendingSlot, n.tx.jam with
  | some k, none =>
    let late := collisionLate cell
    let c := n.counters
    let x := n.slot k
    let n := n.setSlot k { x with collisions := x.collisions.bump }
    ownCells { n with
      tx := { n.tx with driving := jamCells, jam := some late }
      counters := { c with
        collisions := c.collisions.bump
        lateCollisions := if late then c.lateCollisions.bump else c.lateCollisions } }
  | _, _ => n

/-- A slot goes to its backoff (R8): the random source steps, and with r = 0 the slot is PENDING at once. -/
def backOff (k : SlotKind) (n : Node) : Node :=
  let x := n.slot k
  let g := randomStep n.tx.random
  let r := g.toNat % 2 ^ (min x.collisions.toNat 6)
  let n := n.setSlot k
    { x with state := if r = 0 then .pending else .backoff (r * 64), replaced := false }
  ownCells { n with tx := { n.tx with random := g, driving := [], jam := none } }

/-- JAM_END (R7, R10): a STATUS or REPORT frame is dropped after a late collision, or at its tenth collision and then
counted; every other frame goes to its backoff. -/
def jamEnd (n : Node) : Node :=
  match n.sendingSlot, n.tx.jam with
  | some k, some late =>
    if k = .halt then backOff k n
    else if late then releaseSlot k n
    else if 10 ≤ (n.slot k).collisions.toNat then
      releaseSlot k { n with counters := { n.counters with retryDrops := n.counters.retryDrops.bump } }
    else backOff k n
  | _, _ => n

/-- BACKOFF_END (R8): the wait ends and the slot is PENDING. -/
def backoffEnd (k : SlotKind) (n : Node) : Node :=
  match (n.slot k).state with
  | .backoff _ => n.setSlot k { n.slot k with state := .pending }
  | _ => n

end Node

/-! ## The meanings -/

/-- BURST_START (R2). -/
def execBurstStart (s : State) : Host.Outcome State Fault Refusal := takeStep Node.burstStart s

/-- START_BYTE_FOUND (R2). -/
def execStartByteFound (s : State) : Host.Outcome State Fault Refusal := takeStep Node.startByteFound s

/-- FRAME_END (R16). -/
def execFrameEnd (bytes : List Byte) (partialByte : Bool) (s : State) : Host.Outcome State Fault Refusal :=
  takeStep (Node.frameEnd bytes partialByte) s

/-- FRAME_COMPLETE (R20). -/
def execFrameComplete (s : State) : Host.Outcome State Fault Refusal := takeStep Node.frameComplete s

/-- ARBITER_START (R15). -/
def execArbiterStart (quiet : BitVec 8) (s : State) : Host.Outcome State Fault Refusal :=
  takeStep (Node.arbiterStart quiet) s

/-- TRANSMIT_SUCCESS (R5). -/
def execTransmitSuccess (s : State) : Host.Outcome State Fault Refusal := takeStep Node.transmitSuccess s

/-- COLLISION (R6). -/
def execCollision (cell : Option Nat) (s : State) : Host.Outcome State Fault Refusal := takeStep (Node.collision cell) s

/-- JAM_END (R7). -/
def execJamEnd (s : State) : Host.Outcome State Fault Refusal := takeStep Node.jamEnd s

/-- BACKOFF_END (R8). -/
def execBackoffEnd (slot : SlotKind) (s : State) : Host.Outcome State Fault Refusal := takeStep (Node.backoffEnd slot) s

end Sys2Proof.Machine
end

