-- ==== Sys2Proof/Machine/Frames.lean ====
section
/-! DEFINITION. The commands that apply a received frame: STATUS (R44), CUE (R66 to R71), PERMIT (R111), HALT (R123), the
three parts of CLEAR (R126, R136, R156), CANCEL (R81, R82), INQUIRE and the REPORT pages (R180 to R183). Each but HALT acts
on the frame at the head of the receive queue, while it is of that kind and not yet finished with (R20). -/

namespace Sys2Proof.Machine

namespace Node

/-- Applies an owner's work to the frame at the head of the queue when it is of the kind and not finished with. -/
def withHead (kind : Nat) (work : List Byte → Node → Node) (n : Node) : Node :=
  match n.rx.queue with
  | [] => n
  | f :: _ => if frameKind f = kind ∧ n.rx.head.fate = none then work f n else n

/-! ## STATUS (R44) -/

/-- Whether a STATUS of sequence `seq` is taken into an entry (R44). -/
def statusIsNew (e : Entry) (seq : BitVec 8) : Bool :=
  match e.freshness with
  | .absent => true
  | .lost => true
  | _ => decide (1 ≤ (seq - e.lastSeq).toNat) && decide ((seq - e.lastSeq).toNat ≤ 127)

/-- Takes a STATUS into the entry of its station (R44). A tick whose aging of that entry is still outstanding then finds
age 0 and makes it 1 (R45, log entry 1). A changed towed set is judged (R139). -/
def takeStatus (s : Nat) (f : List Byte) (n : Node) : Node :=
  let outstanding := n.due.contains (.peerStale s) || n.due.contains (.peerLost s)
  let towed := n.towedSet
  let n := putEntry s
    { station := s, freshness := .fresh, age := if outstanding then 1 else 0, lastSeq := frameSeq f
      content := decodeStatus (framePayload f) } n
  let n := dropDue (.peerStale s) (dropDue (.peerLost s) n)
  if n.towedSet = towed then n else superviseTow n

/-- A STATUS handed to the Peer Table (R44): taken, or discarded as old. The table holds no entry for a station only when
the fitted mask has been altered since the start (R176); such a STATUS is taken into none (log entry 11). -/
def applyStatus : Node → Node := withHead 1 fun f n =>
  let s := frameStation f
  match n.entry s with
  | none => setFate .accepted n
  | some e => if statusIsNew e (frameSeq f) then setFate .accepted (takeStatus s f n) else setFate .old n

/-! ## CUE (R66 to R71) -/

/-- The tilt target the record resolves for a station (R68); none when the cue does not move the tilt. -/
def tiltTargetFor (r : CueRecord) (s : Nat) : Option Nat :=
  match r.tilt with
  | .none => none
  | .uniform v _ => some v
  | .list vs _ => if s < vs.length then vs[s]? else vs.getLast?

/-- The tilt speed of a record, as sent. -/
def tiltSpeedOf (r : CueRecord) : Nat :=
  match r.tilt with
  | .none => 0
  | .uniform _ u => u
  | .list _ u => u

/-- Every tilt value a record carries (R67). -/
def tiltValues (r : CueRecord) : List Nat :=
  match r.tilt with
  | .none => []
  | .uniform v _ => [v]
  | .list vs _ => vs

/-- Whether the record moves the tilt (R63). -/
def movesTilt (r : CueRecord) : Bool :=
  match r.tilt with
  | .none => false
  | _ => true

/-- The range check of R67: some target the CUE carries lies outside the configured limits. -/
def outOfRange (n : Node) (r : CueRecord) : Bool :=
  (match r.ring with
    | some (t, _) => decide (t < Live.ringMin n.live) || decide (Live.ringMax n.live < t)
    | none => false)
  || (tiltValues r).any (fun v => decide (Live.tiltMax n.live < v))

/-- The shape check of R68: some ring-adjacent fitted pair of the group differs by more than tilt_window. -/
def badShape (n : Node) (r : CueRecord) : Bool :=
  n.peers.map.fitted.any (fun a => n.peers.map.fitted.any (fun b =>
    n.peers.map.adjacent a b &&
      match tiltTargetFor r a, tiltTargetFor r b with
      | some x, some y => decide (y + Live.window n.live .tilt < x)
      | _, _ => false))

/-- A speed as resolved (R70): 0 becomes the configured maximum, a greater one is clamped to it. -/
def resolveSpeed (max sent : Nat) : Nat := if sent = 0 then max else min sent max

/-- The queue entry an accepted CUE becomes at this station (R70). -/
def entryOf (n : Node) (r : CueRecord) : Cue :=
  { id := r.id
    ring := r.ring.map (fun t => { target := t.1, speed := resolveSpeed (Live.cruiseMax n.live .ring) t.2 })
    tilt := (tiltTargetFor r n.station).map
      (fun t => { target := t, speed := resolveSpeed (Live.cruiseMax n.live .tilt) (tiltSpeedOf r) })
    interrupted := false }

/-- The reason for which a CUE that is no duplicate is refused, none if it is accepted (R66, checks 2 to 7). -/
def refusalOf (n : Node) (r : CueRecord) : Option CueReason :=
  if n.cue.phase = .halted ∨ n.cue.phase = .configFault then some .state
  else if 4 ≤ n.cue.queue.length then some .full
  else if n.outOfRange r then some .range
  else if movesTilt r && n.badShape r then some .shape
  else if movesTilt r && !n.seatsStowed then some .stowed
  else none

/-- Whether a cue id is held in the queue or in the retired list (R66, check 1). -/
def holdsCue (n : Node) (id : CueId) : Bool :=
  n.cue.queue.any (fun c => c.id == id) || n.cue.retired.any (fun x => x.id == id)

/-- A CUE judged by the Cue Controller (R66, R70, R71). -/
def judgeCue (r : CueRecord) (n : Node) : Node :=
  let c := n.counters
  if n.holdsCue r.id then { n with counters := { c with duplicateCues := c.duplicateCues.bump } }
  else match n.refusalOf r with
    | some why => setRefusal r.id why { n with counters := { c with cuesRefused := c.cuesRefused.bump } }
    | none =>
      { n with
        cue := { n.cue with queue := n.cue.queue ++ [n.entryOf r] }
        counters := { c with cuesAccepted := c.cuesAccepted.bump } }

/-- A CUE at the frame processor: discarded as filtered by R40 or R41, or handed to the Cue Controller. -/
def applyCue : Node → Node := withHead 2 fun f n =>
  match readCue (framePayload f) with
  | none => setFate .filtered n
  | some r => if n.cueDiscarded f then setFate .filtered n else setFate .accepted (judgeCue r n)

/-! ## PERMIT (R111) -/

/-- A PERMIT sets the permit timer to permit_ticks and it runs; hold cause PERMIT follows (R111, R112). A tick whose
lowering of the timer is still outstanding then lowers the new count (log entry 1). R111 gives a running count from 1 on; a
permit_ticks that an upset has made 0, or 1 with that lowering outstanding, leaves a running count of 0, which expires at the
next tick (DESIGN CHOICE, log entry 28). -/
def applyPermit : Node → Node := withHead 3 fun _ n =>
  let t := n.startValue .permit n.permitTicks
  setFate .accepted (dropDue .permit { n with cue := { n.cue with permit := some t } })

/-! ## CLEAR (R30) -/

/-- Whether the CLEAR carries its fault and tow parts: flag bit 0 (R30). -/
def clearsFaults (f : List Byte) : Bool := (byteAt (framePayload f) 0).getLsbD 0

/-- The CLEAR is finished with once every part it carries is (R39). -/
def closeClear (f : List Byte) (n : Node) : Node :=
  let h := n.rx.head
  if h.latchDone && (!clearsFaults f || (h.faultDone && h.towDone)) then setFate .accepted n else n

/-- HALTED, substate stopped. -/
def haltedStopped (n : Node) : Bool := n.cue.phase == .halted && !n.cue.ramping

/-- The latch part (R156): each masked changed latch takes its value bit, and the attention flag is worked out anew. -/
def clearLatches (mask value : Byte) (n : Node) : Node :=
  let n := { n with inputs := { n.inputs with changed := (n.inputs.changed &&& ~~~mask) ||| (value &&& mask) } }
  { n with inputs := { n.inputs with attention := n.attentionNow } }

/-- The fault part (R126): in HALTED stopped, the faults whose conditions are absent are cleared; an empty set returns the
wagon to IDLE, which the tow part of the same CLEAR does not depend on (R136, log entry 27). -/
def clearFaults (n : Node) : Node :=
  if n.haltedStopped then
    let kept := n.faults.keep (fun k => !n.faultAbsent k)
    let n := if kept = n.faults then n else { n with faults := kept }.note
    if kept = 0 then setPhase .idle { n with rx := { n.rx with head := { n.rx.head with freed := true } } } else n
  else n

/-- The tow part (R136): in IDLE or HALTED stopped, a towed wagon with its drive ready and no TOW channel tripped returns
to DRIVEN. It depends on nothing that the fault part of the same CLEAR has brought on, nor does that depend on it (R30, R127): it
acts where the wagon was HALTED stopped before its fault part, it leaves the towed set's judgement to the fault part as it
finds it, and the ring is planned from an entry to MOVING that has come between, its direction fixed for its setpoint (R91,
log entry 27). -/
def clearTow (n : Node) : Node :=
  if (n.cue.phase = .idle ∨ n.haltedStopped = true ∨ n.rx.head.freed = true) ∧ n.ringMode = .towed ∧ n.driveReady = true
      ∧ n.trippedWith actionTow = false then
    { n with
      ringMode := .driven
      rx := { n.rx with head := { n.rx.head with breach := some n.towBreach } }
      ring := { n.ring with
        up := if n.cue.phase.inMotion && n.headMoves .ring then decide (n.ring.setpoint ≤ n.ring.target)
              else n.ring.up } }.note
  else n

/-- The latch part of the CLEAR at the head of the queue. -/
def applyClearLatch : Node → Node := withHead 5 fun f n =>
  if n.rx.head.latchDone then n
  else
    let p := framePayload f
    let n := clearLatches (byteAt p 1) (byteAt p 2) n
    closeClear f { n with rx := { n.rx with head := { n.rx.head with latchDone := true } } }

/-- The fault part of the CLEAR at the head of the queue, when it carries one (R30). -/
def applyClearFault : Node → Node := withHead 5 fun f n =>
  if n.rx.head.faultDone || !clearsFaults f then n
  else
    let n := clearFaults n
    closeClear f { n with rx := { n.rx with head := { n.rx.head with faultDone := true } } }

/-- The tow part of the CLEAR at the head of the queue, when it carries one (R30). -/
def applyClearTow : Node → Node := withHead 5 fun f n =>
  if n.rx.head.towDone || !clearsFaults f then n
  else
    let n := clearTow n
    closeClear f { n with rx := { n.rx with head := { n.rx.head with towDone := true } } }

/-! ## CANCEL (R81, R82) -/

/-- A CANCEL naming the head (R82). -/
def cancelHead (n : Node) : Node :=
  match n.cue.phase with
  | .idle => retireHead .cancelled n
  | .armed => setPhase .idle (retireHead .cancelled n)
  | .moving => setPhase .stopping n
  | .holding => setPhase .stopping n
  | .halted => retireHead .cancelled n
  | _ => n

/-- A CANCEL of a cue id (R81, R82). -/
def cancelCue (id : CueId) (n : Node) : Node :=
  match n.cue.queue with
  | [] => n
  | c :: rest =>
    if c.id = id then cancelHead n
    else if rest.any (fun x => x.id == id) then
      pushRetired id .cancelled { n with cue := { n.cue with queue := c :: rest.filter (fun x => x.id != id) } }
    else n

/-- The CANCEL at the head of the queue. -/
def applyCancel : Node → Node := withHead 6 fun f n =>
  setFate .accepted (cancelCue (BitVec.ofNat 16 (field (framePayload f) 0 2)) n)

/-! ## INQUIRE and the REPORT pages (R31, R180 to R183, section 2.5) -/

end Node

/-- The 25 counters in the order of the COUNTERS page (section 2.5, R184). -/
def Counters.page (c : Counters) : List Counter :=
  [c.statusSent, c.haltSent, c.reportSent, c.collisions, c.lateCollisions, c.retryDrops, c.statusOverruns,
   c.haltsMerged, c.inquiriesBusy, c.runt, c.crcError, c.missed, c.filtered, c.old, c.unexpectedStation, c.accepted,
   c.duplicateCues, c.cuesAccepted, c.cuesRefused, c.retiredDone, c.retiredFailed, c.retiredCancelled, c.haltsReceived,
   c.sensorFailures, c.resetRefused]

/-- An axis of a queue entry in the CUES page: target and speed, 0 when the cue does not move it (section 2.5). -/
def moveBytes (width : Nat) (m : Option AxisMove) : List Byte :=
  match m with
  | some m => signedBytes width m.target ++ bytesBE 2 m.speed
  | none => bytesBE width 0 ++ bytesBE 2 0

/-- A queue entry in the CUES page (section 2.5). -/
def cueBytes (c : Cue) : List Byte :=
  bytesBE 2 c.id.toNat
    ++ [BitVec.ofNat 8 (c.interrupted.toNat + 2 * c.ring.isSome.toNat + 4 * c.tilt.isSome.toNat)]
    ++ moveBytes 3 c.ring ++ moveBytes 2 c.tilt

/-- An entry in the PEERS page (section 2.5, R181). -/
def entryBytes (e : Entry) : List Byte :=
  [BitVec.ofNat 8 e.station,
   BitVec.ofNat 8 (e.content.phase.code + 16 * e.freshness.code + 64 * e.content.ringMode.code),
   BitVec.ofNat 8 (min e.age.toNat 255)]
    ++ bytesBE 2 e.content.current.toNat ++ bytesBE 2 e.content.lastDone.toNat ++ [e.content.demand]

namespace Node

/-- A channel entry in the MONITOR page (section 2.5). -/
def channelBytes (n : Node) (c : Fin 8) : List Byte :=
  let r := n.liveRecord c
  [BitVec.ofNat 8 ((n.channelEnabled c).toNat + 2 * r.tripped.toNat)] ++ signedBytes 2 r.last
    ++ [BitVec.ofNat 8 r.outRun, BitVec.ofNat 8 r.inRun, BitVec.ofNat 8 (n.channelAction c)]

/-- The body of a REPORT page (section 2.5, R181, R182). -/
def pageBody (n : Node) : Nat → List Byte
  | 1 => n.counters.page.flatMap (fun c => bytesBE 2 c.toNat)
  | 2 =>
    [BitVec.ofNat 8 n.cue.queue.length] ++ n.cue.queue.flatMap cueBytes
      ++ [BitVec.ofNat 8 n.cue.retired.length]
      ++ n.cue.retired.flatMap (fun r => bytesBE 2 r.id.toNat ++ [BitVec.ofNat 8 r.how.code])
      ++ bytesBE 2 n.cue.refusal.id.toNat ++ [BitVec.ofNat 8 n.cue.refusal.reason.code]
      ++ (match n.cue.haltRecord with
          | some h => [1, BitVec.ofNat 8 h.origin, BitVec.ofNat 8 h.reason.code]
          | none => [0, 0, 0])
  | 3 =>
    [BitVec.ofNat 8 n.peers.entries.length] ++ n.peers.entries.flatMap entryBytes ++ bytesBE 2 n.supplyScale
  | 4 => channels.flatMap n.channelBytes
  | 5 => [n.inputs.levels, n.inputs.changed, n.attentionMask] ++ bytesBE 2 n.faults.toNat
  | _ =>
    [BitVec.ofNat 8 n.station] ++ bytesBE 2 n.groupTag ++ bytesBE 2 n.cfg.lastDigest.toNat
      ++ bytesBE 2 n.cfg.startDigest.toNat
      ++ [BitVec.ofNat 8 n.cue.phase.code, BitVec.ofNat 8 n.cfg.status.code, BitVec.ofNat 8 n.ringMode.code]

/-- The page answered: a number above 5 is answered with page 0 (R31). -/
def pageAnswered (page : Nat) : Nat := if page ≤ 5 then page else 0

/-- The REPORT frame that answers an INQUIRE (R25, R180). -/
def reportFrame (n : Node) (f : List Byte) : List Byte :=
  let page := pageAnswered (field (framePayload f) 1 1)
  let body := n.pageBody page
  header 8 (1 + body.length) (frameSource f) n.groupTag n.station n.reportCount ++ [BitVec.ofNat 8 page] ++ body

/-- The INQUIRE at the head of the queue (R180): the page is built and placed into an EMPTY REPORT slot, the REPORT count
advancing, and a placed page 1 with the clear flag sets the counters to 0 (R183); or it is refused and inquiry busy
counted (R14). -/
def applyInquire : Node → Node := withHead 7 fun f n =>
  let p := framePayload f
  if n.tx.report.state = .empty then
    let n' := { n with
      tx := { n.tx with report := Slot.fresh (n.reportFrame f) }
      reportCount := n.reportCount + 1 }
    let clear := pageAnswered (field p 1 1) == 1 && (byteAt p 2).getLsbD 0
    setFate .accepted (if clear then { n' with counters := Counters.zero } else n')
  else
    setFate .accepted { n with counters := { n.counters with inquiriesBusy := n.counters.inquiriesBusy.bump } }

end Node

/-! ## The meanings -/

/-- STATUS (R44). -/
def execStatus (s : State) : Host.Outcome State Fault Refusal := takeStep Node.applyStatus s

/-- CUE (R66). -/
def execCue (s : State) : Host.Outcome State Fault Refusal := takeStep Node.applyCue s

/-- PERMIT (R111). -/
def execPermit (s : State) : Host.Outcome State Fault Refusal := takeStep Node.applyPermit s

/-- HALT (R123): delivers the oldest accepted HALT, and it alone. -/
def execHalt (s : State) : Host.Outcome State Fault Refusal :=
  .next (if s.node.rstnLow then s else { s with node := Node.finish false (Node.deliverHalt s.node) })

/-- CLEAR_LATCH_PART (R156). -/
def execClearLatchPart (s : State) : Host.Outcome State Fault Refusal := takeStep Node.applyClearLatch s

/-- CLEAR_FAULT_PART (R126). -/
def execClearFaultPart (s : State) : Host.Outcome State Fault Refusal := takeStep Node.applyClearFault s

/-- CLEAR_TOW_PART (R136). -/
def execClearTowPart (s : State) : Host.Outcome State Fault Refusal := takeStep Node.applyClearTow s

/-- CANCEL (R82). -/
def execCancel (s : State) : Host.Outcome State Fault Refusal := takeStep Node.applyCancel s

/-- INQUIRE (R180). -/
def execInquire (s : State) : Host.Outcome State Fault Refusal := takeStep Node.applyInquire s

end Sys2Proof.Machine
end

