-- ==== Sys2Proof/Machine/Inputs.lean ====
section
/-! DEFINITION. The Input Latches' command: INPUT_LEVEL_CHANGE (R148, R150 to R155). -/

namespace Sys2Proof.Machine

namespace Node

/-- A change of a brake feedback's level (R148): CHANGING passes to AGREED when it now agrees; AGREED raises BRAKE when it
now disagrees. -/
def feedbackChanged (a : Axis) (n : Node) : Node :=
  match (n.axisDrive a).supervision with
  | .unsupervised => n
  | .changing => if n.brakeAgrees a then brakeAgreed a n else n
  | .agreed => if n.brakeAgrees a then n else raise .brake n

/-- The report of a level change to the block that the table of R150 names. DECK_CLEAR and SEATS_STOWED act through the
hold causes (R112, R113); DRIVE_READY is read at Tow Logic's own tick (R153). -/
def reportInput (i : Fin 8) (n : Node) : Node :=
  match i with
  | 0 => raiseIf (!n.chainClosed) .estop n
  | 1 => raiseIf n.limitStruck .limit n
  | 2 => raiseIf n.limitStruck .limit n
  | 3 => feedbackChanged .ring n
  | 4 => feedbackChanged .tilt n
  | _ => n

/-- INPUT_LEVEL_CHANGE (R150): the level changes, the changed latch is set, the attention flag is worked out anew, and the
change is reported. A level that is held already is no change. -/
def changeLevel (i : Fin 8) (level : Bool) (n : Node) : Node :=
  if n.level i = level then n
  else
    let bit : Byte := 1 <<< i.val
    let n := { n with inputs := { n.inputs with
      levels := n.inputs.levels ^^^ bit, changed := n.inputs.changed ||| bit } }
    reportInput i { n with inputs := { n.inputs with attention := n.attentionNow } }

end Node

/-! ## The meaning -/

/-- INPUT_LEVEL_CHANGE (R150). -/
def execInputLevelChange (input : Fin 8) (level : Bool) (s : State) : Host.Outcome State Fault Refusal :=
  takeStep (Node.changeLevel input level) s

end Sys2Proof.Machine
end

