-- ==== Sys2Proof/Machine/Monitor.lean ====
section
/-! DEFINITION. The Monitor's commands: MONITOR_CONVERSION (R160 to R163), MONITOR_TRIP and MONITOR_UNTRIP (R163 to
R166). -/

namespace Sys2Proof.Machine

/-- The value of a raw reading (R161): the offset plus the scaled reading, limited to the signed 16-bit range. -/
def scaledValue (gain : Nat) (offset : Int) (reading : Nat) : Int :=
  limitTo (-32768, 32767) (offset + ((reading * gain / 1024 : Nat) : Int))

namespace Node

/-- Whether a value of a channel is out of range (R162): outside its limits, or, for INCLINE with a tolerance, too far from
the measured tilt held at the tick of completion. -/
def valueOut (n : Node) (c : Fin 8) (tilt v : Int) : Bool :=
  let tol := Live.inclineTolerance n.live
  decide (v < Live.channelLo n.live c) || decide (Live.channelHi n.live c < v)
    || (c == 0 && decide (0 < tol) && decide (tol < (v - tilt).natAbs))

/-- The turn after a channel: the next enabled one above, wrapping to the lowest (R160). -/
def nextTurn (n : Node) (c : Fin 8) : Option (Fin 8) :=
  match channels.find? (fun d => decide (c < d) && n.channelEnabled d) with
  | some d => some d
  | none => channels.find? n.channelEnabled

/-- Writes a live record. -/
def setLiveRecord (c : Fin 8) (r : LiveRecord) (n : Node) : Node :=
  { n with monitor := { n.monitor with live := n.monitor.live.set c r } }

/-- MONITOR_CONVERSION (R160 to R163): the conversion of the channel named by the turn, one for each tick; the value, the
judgement, by the measured tilt kept at that tick, and the runs. A run that has just reached 3 brings on a trip or an untrip, a step of its own. -/
def convert (reading : BitVec 10) (n : Node) : Node :=
  match n.monitor.turn, n.monitor.converting with
  | some c, some tilt =>
    if n.inService then
      let v := scaledValue (Live.channelGain n.live c) (Live.channelOffset n.live c) reading.toNat
      let r := n.liveRecord c
      let out := n.valueOut c tilt v
      let r' : LiveRecord :=
        { r with
          last := v
          outRun := if out then min 255 (r.outRun + 1) else 0
          inRun := if out then 0 else min 255 (r.inRun + 1) }
      let trips := !r.tripped && out && r'.outRun == 3
      let untrips := r.tripped && !out && r'.inRun == 3
      let next := n.nextTurn c
      let n := setLiveRecord c r' n
      { n with
        monitor := { n.monitor with turn := next, converting := none }
        due := n.due ++ (if trips then [Due.trip c] else []) ++ (if untrips then [Due.untrip c] else []) }
    else n
  | _, _ => n

/-- A channel's trip takes effect by its action (R163 to R167): REPORT on the attention flag, HALT on the MONITOR fault;
HOLD acts through the hold causes (R112) and TOW at Tow Logic's own tick. -/
def trip (c : Fin 8) (n : Node) : Node :=
  let n := setLiveRecord c { n.liveRecord c with tripped := true } n
  let n := if n.channelAction c = actionReport then
      { n with inputs := { n.inputs with attention := n.attentionNow } } else n
  raiseIf (n.channelAction c == actionHalt) .monitor n

/-- A channel's untrip (R163 to R167). -/
def untrip (c : Fin 8) (n : Node) : Node :=
  let n := setLiveRecord c { n.liveRecord c with tripped := false } n
  if n.channelAction c = actionReport then
    { n with inputs := { n.inputs with attention := n.attentionNow } } else n

end Node

end Sys2Proof.Machine
end

