-- ==== Sys2Proof/Machine/Start.lean ====
section
/-! DEFINITION. The Configuration Loader's commands (chapter 10): POWER_ON, RSTN_HELD_LOW, CONFIG_READ_START,
CONFIG_READ_COMPLETE with the starts of R173 and R174, RESET with the soft reset of R178, LIVE_COPY_ALTERATION (R176). -/

namespace Sys2Proof.Machine

/-- The configuration read begins (R169): MCS goes low and stays so until the read completes, and the command goes out on
MSI. -/
def Cfg.beginRead (c : Cfg) : Cfg := { c with read := .reading, mcsLow := true, msi := readCommand }

namespace Node

/-- RSTN held low (R171): TXD released and a frame on the line cut, the brake outputs low, the links idle, a read under way
abandoned. Every block takes its power-on values at the rise. -/
def holdReset (n : Node) : Node :=
  let cut (x : Slot) : Slot := if x.state = .sending then Slot.initial else x
  { n with
    rstnLow := true
    tx := { n.tx with
      status := cut n.tx.status, halt := cut n.tx.halt, report := cut n.tx.report, driving := [], jam := none }
    drive := { n.drive with
      ring := { n.drive.ring with released := false, reading := false }
      tilt := { n.drive.tilt with released := false, reading := false }
      exchanging := false }
    cfg := { n.cfg with read := .idle, mcsLow := false, msi := [] } }

/-- CONFIG_READ_START (R171): the power-up wait is over and the read begins. -/
def configReadStart (n : Node) : Node :=
  if n.cue.phase = .starting ∧ n.cfg.read = .waiting then { n with cfg := n.cfg.beginRead } else n

/-- The seed of the random source for a group tag and a station; a seed of 0 is replaced by 1 (R9). -/
def seedFor (tag station : Nat) : BitVec 16 :=
  let g := BitVec.ofNat 16 (tag % 2048 * 32 + station)
  if g = 0 then 1 else g

/-- The attention flag is worked out anew (R155). -/
def refreshAttention (n : Node) : Node := { n with inputs := { n.inputs with attention := n.attentionNow } }

/-- A read whose status is not VALID (R173, R53): CONFIG_FAULT, both digests 0, the own entry alone. -/
def startUnconfigured (n : Node) : Node :=
  let n := { n with
    tx := { n.tx with random := seedFor 0 n.station }
    peers := { n.peers with entries := [Entry.blankOwn n.station], map := { closed := false, fitted := [] } }
    cfg := { n.cfg with startDigest := 0, lastDigest := 0, recheck := none } }
  refreshAttention (setPhase .configFault n)

/-- A planner's start (R110): setpoint and target at the measured position, limited to the soft limits. -/
def startPlanner (a : Axis) (n : Node) : Node :=
  let s := limitTo (Live.softLimits n.live a) (n.measured a) * 65536
  n.setPlanner a { setpoint := s, velocity := 0, target := s, up := true, pinch := 0 }

/-- Brake supervision begins (R148): AGREED if the feedback agrees, CHANGING with timer brake_ticks otherwise. -/
def startSupervision (a : Axis) (n : Node) : Node :=
  n.setAxisDrive a
    (if n.brakeAgrees a then { n.axisDrive a with supervision := .agreed }
     else { n.axisDrive a with supervision := .changing, brakeTimer := Live.brakeTicks n.live })

/-- A kept fault set takes the newly started wagon to HALTED stopped, the record naming the own station and the lowest
code, without a HALT request (R128). -/
def haltForKeptFaults (n : Node) : Node :=
  match n.faults.lowest with
  | none => n
  | some k => writeHaltRecord n.station (.fault k) (enterHalted n)

/-- The ring map of a live copy (R43). -/
def ringMapOf (l : List Byte) : RingMap :=
  { closed := Live.ringClosed l, fitted := (List.range 24).filter (Live.isFitted l) }

/-- A VALID read (R174): the live copy becomes the configuration and every block takes it up by its own rules. -/
def startConfigured (n : Node) : Node :=
  let d := digestOf n.live
  let m := ringMapOf n.live
  let own := n.station
  let n := setPhase .idle { n with
    tx := { n.tx with random := seedFor (Live.groupTag n.live) own }
    peers := { n.peers with
      map := m
      entries := m.fitted.map (fun s => if s = own then Entry.blankOwn s else Entry.blankPeer s) }
    monitor := { n.monitor with turn := channels.find? (Live.channelEnabled n.live) }
    cfg := { n.cfg with startDigest := d, lastDigest := d, recheck := some 256 } }
  let n := startPlanner .tilt (startPlanner .ring n)
  let n := startSupervision .tilt (startSupervision .ring n)
  let n := haltForKeptFaults (refreshAttention n)
  raiseIf (!n.chainClosed) .estop n

/-- CONFIG_READ_COMPLETE (R169, R170, R173, R174): MCS is raised, the copies are formed and judged, and the phase leaves
STARTING. -/
def configReadComplete (bytes : List Byte) (n : Node) : Node :=
  if n.cue.phase = .starting ∧ n.cfg.read = .reading then
    let status := judgeConfig bytes n.cfg.straps
    let n := { n with cfg := { n.cfg with
      read := .idle, mcsLow := false, msi := [], raw := bytes, live := formLiveCopy bytes, status } }
    if status = .valid then startConfigured n else startUnconfigured n
  else n

/-- A soft reset (R24, R61, R87, R110, R128, R157, R168, R178): what is kept is kept, the rest returns to its start, the
straps are sampled and the read starts at once. A frame on the line is cut; R24 says nothing of a jam on the line, and it is cut
with it (DESIGN CHOICE, log entry 29). -/
def softReset (n : Node) : Node :=
  let rest (d : AxisDrive) : AxisDrive :=
    { d with readFails := 0, released := false, supervision := .unsupervised, brakeTimer := 0 }
  let straps := n.cfg.strapPins
  let missed := n.counters.missed.toNat + (n.rx.queue.length - 1)
  { n with
    tx := { TxUnit.initial with random := n.tx.random }
    rx := { n.rx with queue := [], head := .initial, halts := [] }
    peers := .initial straps.toNat
    cue := .initial
    ring := .initial
    tilt := .initial
    supplyScale := 256
    ringMode := .driven
    drive := { n.drive with ring := rest n.drive.ring, tilt := rest n.drive.tilt, failedExchanges := 0 }
    inputs := { n.inputs with attention := false }
    monitor := .initial
    cfg := { n.cfg with
      straps, raw := [], live := [], status := .valid, startDigest := 0, lastDigest := 0, recheck := none }.beginRead
    reportCount := 0
    counters := { n.counters with accepted := n.counters.accepted.bump, missed := BitVec.ofNat 16 (min missed 65535) }
    due := []
    statusEvent := false }

/-- The phases in which a RESET is refused (R177). -/
def refusesReset (n : Node) : Bool := n.cue.phase.inMotion || (n.cue.phase == .halted && n.cue.ramping)

/-- The RESET at the head of the queue (R177): refused and counted while moving; otherwise completed, counted as accepted,
and taken as a soft reset. -/
def applyReset : Node → Node := withHead 9 fun _ n =>
  if n.refusesReset then
    setFate .accepted { n with counters := { n.counters with resetRefused := n.counters.resetRefused.bump } }
  else softReset n

/-- LIVE_COPY_ALTERATION (R176): a byte of the group-common part takes another value, outside STARTING and CONFIG_FAULT. -/
def alterLiveCopy (address : Nat) (value : Byte) (n : Node) : Node :=
  if n.inService = true ∧ 21 ≤ address ∧ address ≤ 79 then
    { n with cfg := { n.cfg with live := n.cfg.live.set address value } }
  else n

end Node

/-! ## The meanings -/

/-- POWER_ON (R171): RSTN rises, every block at its power-on values, the straps and the input pins sampled. -/
def execPowerOn (straps : BitVec 5) (pins : BitVec 8) (s : State) : Host.Outcome State Fault Refusal :=
  .next { s with node := Node.powerOn straps pins }

/-- RSTN_HELD_LOW (R171). -/
def execRstnHeldLow (s : State) : Host.Outcome State Fault Refusal := .next { s with node := Node.holdReset s.node }

/-- CONFIG_READ_START (R171). -/
def execConfigReadStart (s : State) : Host.Outcome State Fault Refusal := takeStep Node.configReadStart s

/-- CONFIG_READ_COMPLETE (R170). -/
def execConfigReadComplete (bytes : List Byte) (s : State) : Host.Outcome State Fault Refusal :=
  takeStep (Node.configReadComplete bytes) s

/-- RESET (R177); the strap pins are as given. -/
def execReset (straps : BitVec 5) (s : State) : Host.Outcome State Fault Refusal :=
  takeStep (fun n => Node.applyReset { n with cfg := { n.cfg with strapPins := straps } }) s

/-- LIVE_COPY_ALTERATION (R176). -/
def execLiveCopyAlteration (address : Nat) (value : Byte) (s : State) : Host.Outcome State Fault Refusal :=
  takeStep (Node.alterLiveCopy address value) s

end Sys2Proof.Machine
end

