-- ==== Sys2Proof/Machine/Planning.lean ====
section
/-! DEFINITION. The Axis Planners (chapter 5): supply scale (R92), cap (R93), profile velocity (R94), candidate (R95),
window clamp (R96, R97), commit (R98), pinch count (R99), the regimes of R90, and the skew check (R107). -/

namespace Sys2Proof.Machine

/-- The supply scale of a budget and a demand sum (R92). -/
def supplyScaleOf (budget demand : Nat) : Nat := if demand ≤ budget then 256 else max 32 (256 * budget / demand)

/-- The cap of R93: the cruise step by the supply scale and, for a derated ring, by the derate. -/
def capOf (cruise scale derate : Nat) : Nat := cruise * scale / 256 * derate / 256

/-- The distance in which `v` is brought down at `a` (R94); at a step of 0 the spec gives none (log entry 5). -/
def brakingDistance (v a : Nat) : Nat := if a = 0 then Config.brakingDistanceAtRest v else v * v / (2 * a)

/-- The profile velocity v′ of R94 from the velocity memory, the cap, the acceleration step and the remaining distance. -/
def profileVelocity (v cap a : Nat) (r : Int) : Nat :=
  if cap < v then max (v - a) cap
  else if r - (v : Int) ≤ (brakingDistance v a : Int) then max (v - a) a
  else min (v + a) cap

/-- The direction as a sign (R88). -/
def signOf (up : Bool) : Int := if up then 1 else -1

namespace Planner

/-- The remaining distance r = d × (T − S) (R94). -/
def remaining (p : Planner) : Int := signOf p.up * (p.target - p.setpoint)

/-- The candidate setpoint of R95. -/
def candidate (p : Planner) (v : Nat) : Int :=
  if p.remaining ≤ (v : Int) then p.target else p.setpoint + signOf p.up * (v : Int)

/-- The window clamp of R96 and R97 on a candidate, from the neighbours' projections and the window, in whole units. -/
def clamp (p : Planner) (projections : List Int) (window : Nat) (c : Int) : Int :=
  match projections with
  | [] => c
  | x :: rest =>
    let lower := (rest.foldl max x - (window : Int)) * 65536
    let upper := (rest.foldl min x + (window : Int)) * 65536
    let d := signOf p.up
    let bound := if p.up then upper else lower
    if upper < lower then p.setpoint
    else if d * c ≤ d * bound then c
    else if d * p.setpoint ≤ d * bound then bound
    else p.setpoint

/-- The commit of R98. -/
def commit (p : Planner) (c : Int) : Planner :=
  { p with setpoint := c, velocity := (signOf p.up * (c - p.setpoint)).toNat }

/-- A held axis (R90): the setpoint stands, velocity memory and pinch counter 0. -/
def hold (p : Planner) : Planner := { p with velocity := 0, pinch := 0 }

/-- Following a measured position in whole units, limited to the soft limits (R105, R106). -/
def follow (p : Planner) (limits : Int × Int) (measured : Int) : Planner :=
  { p with setpoint := limitTo limits measured * 65536, velocity := 0, pinch := 0 }

/-- A ramp's candidate at deceleration `a` (R101, R103). -/
def rampCandidate (p : Planner) (a : Nat) : Int := p.candidate (p.velocity - a)

end Planner

namespace Node

/-- The derate of the ring cap (R138): tow_derate while some station is towed, else 256; the tilt is never derated. -/
def derate (n : Node) : Axis → Nat
  | .ring => if n.towedSet.isEmpty then 256 else Live.towDerate n.live
  | .tilt => 256

/-- The cap of an axis the head moves (R93), within its cruise step (R109); 0 for one it does not. -/
def cap (n : Node) (a : Axis) : Nat :=
  match n.headMove a with
  | some m => capOf (speedStep m.speed) n.supplyScale (n.derate a)
  | none => 0

/-- The normal acceleration step of an axis (R89). -/
def normalStep (n : Node) (a : Axis) : Nat := accelStep (Live.accel n.live a)

/-- The clamp of an axis at a tick (R96, R97). -/
def clamped (n : Node) (a : Axis) (c : Int) : Int :=
  (n.planner a).clamp (n.projections a) (Live.window n.live a) c

/-- The axis after the commit of a MOVING tick, before its pinch is counted (R93 to R98). -/
def profileStep (n : Node) (a : Axis) : Planner :=
  let p := n.planner a
  let v := profileVelocity p.velocity (n.cap a) (n.normalStep a) p.remaining
  p.commit (n.clamped a (p.candidate v))

/-- One tick of the MOVING profile (R93 to R99). The count that reaches pinch_ticks is made by PINCH_LIMIT, which this tick
brings on (log entry 1). A pinch_ticks that an upset has made 0, or no more than the present count, is reached at the next pinched tick
(DESIGN CHOICE, log entry 28). -/
def profileTick (a : Axis) (n : Node) : Node :=
  let p := n.profileStep a
  if p.velocity = 0 ∧ p.setpoint ≠ p.target then
    if Live.pinchTicks n.live ≤ p.pinch + 1 then { (n.setPlanner a p) with due := n.due ++ [.pinch a] }
    else n.setPlanner a { p with pinch := p.pinch + 1 }
  else n.setPlanner a { p with pinch := 0 }

/-- One tick of the controlled ramp (R101); an axis at rest keeps its setpoint (R102). -/
def controlledTick (a : Axis) (n : Node) : Node :=
  let p := n.planner a
  n.setPlanner a { p.commit (n.clamped a (p.rampCandidate (n.normalStep a))) with pinch := 0 }

/-- One tick of the emergency ramp (R103). -/
def emergencyTick (a : Axis) (n : Node) : Node :=
  let p := n.planner a
  n.setPlanner a { p.commit (p.rampCandidate (accelStep (Live.emerg n.live a))) with pinch := 0 }

/-- Whether the planner of an axis follows the measured position (R105, R106, R134). -/
def follows (n : Node) (a : Axis) : Bool := n.estopLatched || (a == .ring && n.ringMode == .towed)

/-- Whether the head moves the axis and its brake has reported released (R76, R90). -/
def underway (n : Node) (a : Axis) : Bool := n.headMoves a && n.release a == some .released

/-- One axis at a control tick, by the regime of R90. -/
def planAxis (a : Axis) (n : Node) : Node :=
  if n.inService = false then n
  else if n.follows a then
    n.setPlanner a ((n.planner a).follow (Live.softLimits n.live a) (n.measured a))
  else if n.cue.phase = .moving ∧ n.underway a = true then profileTick a n
  else if (n.cue.phase = .holding ∨ n.cue.phase = .stopping) ∧ n.underway a = true then controlledTick a n
  else if n.cue.phase = .halted ∧ n.cue.ramping = true ∧ 0 < (n.planner a).velocity then emergencyTick a n
  else n.setPlanner a (n.planner a).hold

/-- The supply scale is worked out (R92). -/
def rescale (n : Node) : Node :=
  if n.inService then { n with supplyScale := supplyScaleOf (Live.supplyBudget n.live) n.demandSum } else n

/-- Both planners at a control tick, the supply scale first (R90, R92). -/
def runPlanners (n : Node) : Node := planAxis .tilt (planAxis .ring (rescale n))

/-- Whether the skew of an axis is checked (R107). -/
def skewChecked (n : Node) (a : Axis) : Bool :=
  (n.cue.phase.inMotion && n.headMoves a)
    || (n.cue.phase == .halted && n.cue.ramping && decide (0 < (n.planner a).velocity))

/-- Whether the measured position of an axis lies too far from a neighbour's projection (R107). -/
def skewed (n : Node) (a : Axis) : Bool :=
  (n.projections a).any (fun p =>
    decide (Live.window n.live a + Live.skewExcess n.live a < (n.measured a - p).natAbs))

/-- The measured-skew check of both axes (R107). -/
def skewCheck (n : Node) : Node :=
  raiseIf ((n.skewChecked .ring && n.skewed .ring) || (n.skewChecked .tilt && n.skewed .tilt)) .skew n

end Node

end Sys2Proof.Machine
end

