-- ==== Sys2Proof/Machine/Timers.lean ====
section
/-! DEFINITION. The steps a control tick brings on (log entry 1): the expiries, the stale and lost entries, the pinch limit,
the settle count, and the Monitor's trips. Each is taken once for its mark, and makes the last advance of its count
together with what follows from it. -/

namespace Sys2Proof.Machine

namespace Node

/-- The status period timer reaches 0 and a STATUS is built (R49). -/
def expireStatusPeriod (n : Node) : Node := build n

/-- A peer entry's age passes the stale threshold (R45, R46): hold cause PEER follows (R112). -/
def entryStale (s : Nat) (n : Node) : Node :=
  match n.entry s with
  | some e => if e.freshness = .fresh then putEntry s { e with age := e.age.bump, freshness := .stale } n else n
  | none => n

/-- A peer entry's age passes the lost threshold (R45, R47): PEER_LOST is raised in the phases of motion. -/
def entryLost (s : Nat) (n : Node) : Node :=
  match n.entry s with
  | some e =>
    if e.freshness = .fresh ∨ e.freshness = .stale then
      raiseIf n.cue.phase.inMotion .peerLost (putEntry s { e with age := e.age.bump, freshness := .lost } n)
    else n
  | none => n

/-- The arm timer reaches 0 in ARMED (R73). -/
def expireArm (n : Node) : Node :=
  if n.cue.phase = .armed then failHead .timeout { n with cue := { n.cue with arm := 0 } } else n

/-- The permit timer reaches 0 and is not running (R111): hold cause PERMIT follows (R112). -/
def expirePermit (n : Node) : Node := { n with cue := { n.cue with permit := none } }

/-- A CHANGING brake timer reaches 0 with the feedback disagreeing (R148): BRAKE is raised, the state stays CHANGING. -/
def expireBrake (a : Axis) (n : Node) : Node :=
  if (n.axisDrive a).supervision = .changing then
    raise .brake (n.setAxisDrive a { n.axisDrive a with brakeTimer := 0 })
  else n

/-- The recheck timer reaches 0 (R176): the digest is computed again and stored, the timer set to 256, and CONFIG raised if
the digest differs from the start digest. -/
def recheck (n : Node) : Node :=
  let d := digestOf n.live
  raiseIf (d != n.cfg.startDigest) .config { n with cfg := { n.cfg with lastDigest := d, recheck := some 256 } }

/-- The pinch counter reaches pinch_ticks (R99): PINCH is raised. The counter takes pinch_ticks as the live copy then gives it,
after an upset too (DESIGN CHOICE, log entry 28). -/
def reachPinch (a : Axis) (n : Node) : Node :=
  raise .pinch (n.setPlanner a { n.planner a with pinch := Live.pinchTicks n.live })

/-- The settle counter reaches settle_ticks (R78, R79): the phase becomes DONE. The counter takes settle_ticks as the live copy
then gives it, after an upset too (DESIGN CHOICE, log entry 28). -/
def reachSettle (n : Node) : Node :=
  if n.cue.phase = .settling then
    setPhase .done { n with cue := { n.cue with settleCount := Live.settleTicks n.live } }
  else n

/-- What the step of a mark does. -/
def dueEffect : Due → Node → Node
  | .statusPeriod => expireStatusPeriod
  | .peerStale s => entryStale s
  | .peerLost s => entryLost s
  | .arm => expireArm
  | .permit => expirePermit
  | .brake a => expireBrake a
  | .recheck => recheck
  | .pinch a => reachPinch a
  | .settle => reachSettle
  | .trip c => trip c
  | .untrip c => untrip c

/-- Takes the step of a mark, once; without its mark the step does not come. -/
def takeDue (d : Due) (n : Node) : Node := if n.due.contains d then dueEffect d (dropDue d n) else n

end Node

/-! ## The meanings -/

/-- STATUS_PERIOD_EXPIRY (R49). -/
def execStatusPeriodExpiry (s : State) : Host.Outcome State Fault Refusal := takeStep (Node.takeDue .statusPeriod) s

/-- PEER_ENTRY_STALE (R46). -/
def execPeerEntryStale (station : Nat) (s : State) : Host.Outcome State Fault Refusal :=
  takeStep (Node.takeDue (.peerStale station)) s

/-- PEER_ENTRY_LOST (R47). -/
def execPeerEntryLost (station : Nat) (s : State) : Host.Outcome State Fault Refusal :=
  takeStep (Node.takeDue (.peerLost station)) s

/-- ARM_TIMER_EXPIRY (R73). -/
def execArmTimerExpiry (s : State) : Host.Outcome State Fault Refusal := takeStep (Node.takeDue .arm) s

/-- PERMIT_TIMER_EXPIRY (R111). -/
def execPermitTimerExpiry (s : State) : Host.Outcome State Fault Refusal := takeStep (Node.takeDue .permit) s

/-- BRAKE_TIMER_EXPIRY (R148). -/
def execBrakeTimerExpiry (axis : Axis) (s : State) : Host.Outcome State Fault Refusal :=
  takeStep (Node.takeDue (.brake axis)) s

/-- RECHECK_TIMER_EXPIRY (R176). -/
def execRecheckTimerExpiry (s : State) : Host.Outcome State Fault Refusal := takeStep (Node.takeDue .recheck) s

/-- PINCH_LIMIT (R99). -/
def execPinchLimit (axis : Axis) (s : State) : Host.Outcome State Fault Refusal :=
  takeStep (Node.takeDue (.pinch axis)) s

/-- SETTLE_COUNT_REACHED (R78). -/
def execSettleCountReached (s : State) : Host.Outcome State Fault Refusal := takeStep (Node.takeDue .settle) s

/-- MONITOR_CONVERSION (R161). -/
def execMonitorConversion (reading : BitVec 10) (s : State) : Host.Outcome State Fault Refusal :=
  takeStep (Node.convert reading) s

/-- MONITOR_TRIP (R163). -/
def execMonitorTrip (channel : Fin 8) (s : State) : Host.Outcome State Fault Refusal :=
  takeStep (Node.takeDue (.trip channel)) s

/-- MONITOR_UNTRIP (R163). -/
def execMonitorUntrip (channel : Fin 8) (s : State) : Host.Outcome State Fault Refusal :=
  takeStep (Node.takeDue (.untrip channel)) s

end Sys2Proof.Machine
end

