-- ==== Sys2Proof/Machine/Tick.lean ====
section
/-! DEFINITION. CONTROL_TICK (R90): what each block does at the tick, and the tick as a whole. -/

namespace Sys2Proof.Machine

/-- The freshness an age gives (R45). Where an upset has put the stale threshold at or above the lost one, an age that both words
of R45 fit is FRESH, and the next age above is LOST (DESIGN CHOICE, log entry 31). -/
def freshnessAt (stale lost age : Nat) : Freshness :=
  if age ≤ stale then .fresh else if age ≤ lost then .stale else .lost

/-- A timer at a tick: lowered by one; the last lowering is left to the timer's own step, which the tick brings on
(log entry 1). A timer that an upset's value has started at 0 comes to its end at the same tick as one of 1 (DESIGN CHOICE, log
entry 28). -/
def lowered (t : Nat) : Option Nat := if t ≤ 1 then none else some (t - 1)

namespace Node

/-- Marks the own step of a count that this tick has brought to its end. -/
def addDue (d : Due) (n : Node) : Node := { n with due := n.due ++ [d] }

/-! ## The blocks -/

/-- The clash age goes up in every phase (R18). -/
def ageClash (n : Node) : Node := { n with rx := { n.rx with clashAge := n.rx.clashAge.bump } }

/-- One peer entry at a tick (R45): its age and freshness; an entry that becomes STALE or LOST does so in its own step. -/
def ageEntry (n : Node) (e : Entry) : Entry × List Due :=
  if e.freshness = .absent ∨ e.station = n.station then (e, [])
  else
    let age := e.age.bump
    let f := freshnessAt (Live.staleThreshold n.live) (Live.lostThreshold n.live) age.toNat
    if e.freshness = .fresh ∧ f = .stale then (e, [.peerStale e.station])
    else if e.freshness ≠ .lost ∧ f = .lost then (e, [.peerLost e.station])
    else ({ e with age, freshness := f }, [])

/-- The Peer Table ages its peer entries (R45, R53). -/
def agePeers (n : Node) : Node :=
  if n.inService then
    { n with
      peers := { n.peers with entries := n.peers.entries.map (fun e => (n.ageEntry e).1) }
      due := n.due ++ n.peers.entries.flatMap (fun e => (n.ageEntry e).2) }
  else n

/-- The status period timer (R49). -/
def lowerStatusTimer (n : Node) : Node :=
  match n.peers.timer with
  | none => n
  | some t => match lowered t with
    | none => addDue .statusPeriod n
    | some t => { n with peers := { n.peers with timer := some t } }

/-- The permit timer (R111). -/
def lowerPermitTimer (n : Node) : Node :=
  match n.cue.permit with
  | none => n
  | some t => match lowered t with
    | none => addDue .permit n
    | some t => { n with cue := { n.cue with permit := some t } }

/-- The arm timer, in ARMED (R73). One set to an arm_ticks of 0, which only an upset gives, expires at the next tick (DESIGN
CHOICE, log entry 28). -/
def lowerArmTimer (n : Node) : Node :=
  if n.cue.phase = .armed ∧ n.cue.armRunning = true then
    match lowered n.cue.arm with
    | none => addDue .arm n
    | some t => { n with cue := { n.cue with arm := t } }
  else n

/-- Whether an axis the head moves is in band (R78). -/
def inBand (n : Node) (a : Axis) : Bool :=
  match n.headMove a with
  | none => true
  | some m => decide ((n.measured a - m.target).natAbs ≤ Live.inpos n.live a)

/-- The settle count, in SETTLING (R78). A settle_ticks that an upset has made 0, or no more than the present count, is reached
at the next tick in band (DESIGN CHOICE, log entry 28). -/
def countSettle (n : Node) : Node :=
  if n.cue.phase = .settling then
    if n.inBand .ring && n.inBand .tilt then
      if Live.settleTicks n.live ≤ n.cue.settleCount + 1 then addDue .settle n
      else { n with cue := { n.cue with settleCount := n.cue.settleCount + 1 } }
    else { n with cue := { n.cue with settleCount := 0 } }
  else n

/-- One brake's timer and standing disagreement (R148): CHANGING lowers its timer, and at 0 raises BRAKE again while the
feedback disagrees; AGREED raises BRAKE while the feedback disagrees. -/
def superviseBrake (a : Axis) (n : Node) : Node :=
  let d := n.axisDrive a
  match d.supervision with
  | .unsupervised => n
  | .agreed => raiseIf (!n.brakeAgrees a) .brake n
  | .changing =>
    if d.brakeTimer = 0 then raiseIf (!n.brakeAgrees a) .brake n
    else match lowered d.brakeTimer with
      | none => addDue (.brake a) n
      | some t => n.setAxisDrive a { d with brakeTimer := t }

/-- Entry to TOWED (R133): the ring mode, and the ring velocity memory 0. -/
def enterTowed (n : Node) : Node := { n with ringMode := .towed, ring := { n.ring with velocity := 0 } }.note

/-- Tow Logic at a tick (R131, R132): a ring drive failure of a DRIVEN wagon without DRIVE latched is taken as a tow or
raises DRIVE. -/
def decideTow (n : Node) : Node :=
  if n.inService && n.ringDriveFailed && n.ringMode == .driven && !n.faults.has .drive then
    if n.towAllowed then enterTowed n else raise .drive n
  else n

/-- The tilt drive's judgement (R143). -/
def judgeTiltDrive (n : Node) : Node := raiseIf (n.enabled .tilt && n.tiltDriveFailed) .drive n

/-- The tilt limits at a tick (R152). -/
def checkLimits (n : Node) : Node := raiseIf n.limitStruck .limit n

/-- The recheck timer (R176). -/
def lowerRecheckTimer (n : Node) : Node :=
  match n.cfg.recheck with
  | none => n
  | some t => match lowered t with
    | none => addDue .recheck n
    | some t => { n with cfg := { n.cfg with recheck := some t } }

/-- The Monitor's turn (R160): where a channel is enabled, one conversion completes for this tick, by MONITOR_CONVERSION or
within the tick by `conversion`. The measured tilt held now is kept for its judgement (R162). -/
def beginConversion (n : Node) : Node :=
  { n with monitor := { n.monitor with converting :=
    if n.inService && n.monitor.turn.isSome then some (n.measured .tilt) else none } }

/-- Whether the following error of an axis is judged and too large (R146). -/
def followBroken (n : Node) (a : Axis) : Bool :=
  n.enabled a && (n.axisDrive a).supervision == .agreed && (n.axisDrive a).released
    && decide (Live.follow n.live a < (wholeUnits (n.planner a).setpoint - n.measured a).natAbs)

/-- The following error of both axes (R146). -/
def checkFollow (n : Node) : Node := raiseIf (n.followBroken .ring || n.followBroken .tilt) .follow n

/-- The request record of an exchange (R140). -/
def requestNow (n : Node) : DriveRequest :=
  if n.inService then
    { ringEnable := n.enabled .ring, tiltEnable := n.enabled .tilt
      ringSetpoint := wholeUnits n.ring.setpoint - n.homeOffset
      tiltSetpoint := wholeUnits n.tilt.setpoint
      ringFeed := reportedVelocity n.ring.up n.ring.velocity
      tiltFeed := reportedVelocity n.tilt.up n.tilt.velocity }
  else
    { ringEnable := false, tiltEnable := false, ringSetpoint := n.drive.ring.raw, tiltSetpoint := n.drive.tilt.raw
      ringFeed := 0, tiltFeed := 0 }

/-- The drive link exchange and both sensor reads begin (R140, R144). -/
def beginExchange (n : Node) : Node :=
  { n with drive := { n.drive with
    request := n.requestNow
    exchanging := true
    ring := { n.drive.ring with reading := true }
    tilt := { n.drive.tilt with reading := true } } }

/-- What one block does at the tick; `expiry` takes the step of a mark this tick has set, and `conversion` completes the
conversion of a turn this tick has taken, as MONITOR_CONVERSION does (R167, log entry 2). -/
def runBlock : TickBlock → Node → Node
  | .clashAge => ageClash
  | .peerAging => agePeers
  | .statusTimer => lowerStatusTimer
  | .permitTimer => lowerPermitTimer
  | .armTimer => lowerArmTimer
  | .settleCount => countSettle
  | .planners => runPlanners
  | .skewCheck => skewCheck
  | .brakeTimers => fun n => superviseBrake .tilt (superviseBrake .ring n)
  | .towLogic => decideTow
  | .tiltDriveCheck => judgeTiltDrive
  | .limitCheck => checkLimits
  | .recheckTimer => lowerRecheckTimer
  | .monitorTurn => beginConversion
  | .followCheck => checkFollow
  | .exchange => beginExchange
  | .expiry d => fun n => finish false (takeDue d n)
  | .conversion r => fun n => finish false (convert r n)

end Node

/-! ## The order of the blocks (log entry 2) -/

/-- Every block once, in the order taken where the command gives none. -/
def everyBlock : List TickBlock :=
  [.clashAge, .peerAging, .statusTimer, .permitTimer, .armTimer, .settleCount, .planners, .skewCheck, .brakeTimers,
   .towLogic, .tiltDriveCheck, .limitCheck, .recheckTimer, .monitorTurn, .followCheck, .exchange]

/-- The blocks that use the setpoint committed at the same tick (R140, R146). -/
def usesSetpoint (b : TickBlock) : Bool := b == .followCheck || b == .exchange

/-- The order in which the blocks act: the order asked for, then the blocks it leaves out, each once, the planners no later
than the first block that uses their setpoints. -/
def schedule (order : List TickBlock) : List TickBlock :=
  let l := (order ++ everyBlock).eraseDups
  let stop (b : TickBlock) : Bool := b != .planners && !usesSetpoint b
  l.takeWhile stop ++ .planners :: (l.dropWhile stop).filter (fun b => b != .planners)

namespace Node

/-! ## What is due by the tick -/

/-- The steps that the tick before brought on and that have not been taken (log entry 1). -/
def forceDue (n : Node) : Node := n.due.foldl (fun m d => finish false (takeDue d m)) n

/-- The exchange and the reads begun at the tick before complete before this one (R140, R144): without a completion, no
reply came. -/
def forceLinks (n : Node) : Node :=
  let n := if n.drive.exchanging then completeExchange none n else n
  let n := if n.drive.ring.reading then finish false (completeRead .ring none n) else n
  if n.drive.tilt.reading then finish false (completeRead .tilt none n) else n

/-- The frame at the head of the receive queue is finished with at the latest at this tick (R20): applied if it has not
been, completed if it has. The spec gives the parts of a CLEAR no order: those not yet applied are taken here latch part first, then
fault part, then tow part (DESIGN CHOICE, log entry 1). -/
def forceHead (n : Node) : Node :=
  match n.rx.queue with
  | [] => n
  | f :: _ =>
    if n.headFate.isSome then frameComplete n
    else match frameKind f with
      | 1 => finish false (applyStatus n)
      | 2 => finish false (applyCue n)
      | 3 => finish false (applyPermit n)
      | 5 =>
        finish false (applyClearTow (finish false (applyClearFault (finish false (applyClearLatch n)))))
      | 6 => finish false (applyCancel n)
      | 7 => finish false (applyInquire n)
      | 9 => finish false (applyReset n)
      | _ => n

/-- Everything that must have been taken before the blocks act at this tick. -/
def beforeTick (n : Node) : Node := forceHead (forceLinks (forceDue n))

/-- The build allowance is set (R50). -/
def allow (n : Node) : Node := { n with peers := { n.peers with allowance := true } }

/-- The blocks act in the given order, each with its consequences. -/
def runBlocks (l : List TickBlock) (n : Node) : Node := l.foldl (fun m b => settled true (runBlock b m)) n

/-- The control tick (R90): what is due by it, the allowance, the blocks, and the build of the tick. -/
def controlTick (order : List TickBlock) (n : Node) : Node :=
  finish true (runBlocks (schedule order) (allow (beforeTick n)))

end Node

/-- CONTROL_TICK (R90). -/
def execControlTick (order : List TickBlock) (s : State) : Host.Outcome State Fault Refusal :=
  .next (if s.node.rstnLow then s
    else { s with node := Node.controlTick order (Node.deliverHalts s.node) })

end Sys2Proof.Machine
end

