-- ==== Sys2Proof/Machine/Dispatch.lean ====
section
/-! DEFINITION. Which meaning each command has: one arm per row of the table, in the table's order. -/

namespace Sys2Proof.Machine

/-- A command's effect on everything but the queue of waiting commands. -/
def exec (i : Instr) (s : State) : Host.Outcome State Fault Refusal :=
  match i with
  | .powerOn straps pins => Sys2Proof.Machine.execPowerOn straps pins s
  | .configReadStart => Sys2Proof.Machine.execConfigReadStart s
  | .configReadComplete bytes => Sys2Proof.Machine.execConfigReadComplete bytes s
  | .controlTick order => Sys2Proof.Machine.execControlTick order s
  | .driveExchangeComplete reply => Sys2Proof.Machine.execDriveExchangeComplete reply s
  | .sensorReadComplete sensor value => Sys2Proof.Machine.execSensorReadComplete sensor value s
  | .statusPeriodExpiry => Sys2Proof.Machine.execStatusPeriodExpiry s
  | .peerEntryStale station => Sys2Proof.Machine.execPeerEntryStale station s
  | .peerEntryLost station => Sys2Proof.Machine.execPeerEntryLost station s
  | .armTimerExpiry => Sys2Proof.Machine.execArmTimerExpiry s
  | .permitTimerExpiry => Sys2Proof.Machine.execPermitTimerExpiry s
  | .brakeTimerExpiry axis => Sys2Proof.Machine.execBrakeTimerExpiry axis s
  | .recheckTimerExpiry => Sys2Proof.Machine.execRecheckTimerExpiry s
  | .pinchLimit axis => Sys2Proof.Machine.execPinchLimit axis s
  | .settleCountReached => Sys2Proof.Machine.execSettleCountReached s
  | .monitorConversion reading => Sys2Proof.Machine.execMonitorConversion reading s
  | .monitorTrip channel => Sys2Proof.Machine.execMonitorTrip channel s
  | .monitorUntrip channel => Sys2Proof.Machine.execMonitorUntrip channel s
  | .inputLevelChange input level => Sys2Proof.Machine.execInputLevelChange input level s
  | .frameEnd bytes partialByte => Sys2Proof.Machine.execFrameEnd bytes partialByte s
  | .frameComplete => Sys2Proof.Machine.execFrameComplete s
  | .status => Sys2Proof.Machine.execStatus s
  | .cue => Sys2Proof.Machine.execCue s
  | .permit => Sys2Proof.Machine.execPermit s
  | .halt => Sys2Proof.Machine.execHalt s
  | .clearLatchPart => Sys2Proof.Machine.execClearLatchPart s
  | .clearFaultPart => Sys2Proof.Machine.execClearFaultPart s
  | .clearTowPart => Sys2Proof.Machine.execClearTowPart s
  | .cancel => Sys2Proof.Machine.execCancel s
  | .inquire => Sys2Proof.Machine.execInquire s
  | .reset straps => Sys2Proof.Machine.execReset straps s
  | .arbiterStart quiet => Sys2Proof.Machine.execArbiterStart quiet s
  | .transmitSuccess => Sys2Proof.Machine.execTransmitSuccess s
  | .collision cell => Sys2Proof.Machine.execCollision cell s
  | .jamEnd => Sys2Proof.Machine.execJamEnd s
  | .backoffEnd slot => Sys2Proof.Machine.execBackoffEnd slot s
  | .rstnHeldLow => Sys2Proof.Machine.execRstnHeldLow s
  | .burstStart => Sys2Proof.Machine.execBurstStart s
  | .startByteFound => Sys2Proof.Machine.execStartByteFound s
  | .liveCopyAlteration address value => Sys2Proof.Machine.execLiveCopyAlteration address value s

end Sys2Proof.Machine
end

