-- ==== Sys2Proof/Safety.lean ====
section
/-! DEFINITION. What the claims speak of: when the part takes an event with nothing left over, and the laws that the spec
gives the whole part, with the record's table (section 10.1) and the window clamp (R97) as the spec words them (R19, R42, R64, R65, R72, R92, R108, R109, R112, R114, R117, R141, R145, R147, R159). -/

namespace Sys2Proof.Machine

/-- The unsigned fields of the configuration record with a range (section 10.1): offset, width, lowest, highest, and the default
of a group-common field that has one. -/
def recordTable : List (Nat × Nat × Nat × Nat × Option Nat) :=
  [(0, 1, 1, 1, none), (1, 2, 1, 4094, none), (10, 2, 0, 3200, none)]
    ++ [(21, 1, 2, 24, none), (22, 1, 0, 1, none), (27, 1, 2, 10, some 3), (28, 1, 2, 8, some 3), (29, 1, 4, 40, some 12)]
    ++ [(30, 2, 20, 2000, some 150), (32, 2, 10, 500, some 120), (34, 2, 10, 1000, some 60), (36, 2, 5, 500, some 40)]
    ++ [(38, 2, 50, 1000, some 600), (40, 2, 10, 1000, some 150), (42, 2, 50, 5000, some 600)]
    ++ [(44, 2, 5, 200, some 50), (46, 2, 5, 500, some 50), (48, 2, 20, 2000, some 200), (56, 2, 100, 3200, some 3000)]
    ++ [(58, 1, 1, 100, some 5), (59, 1, 1, 100, some 5), (60, 1, 5, 250, some 25), (61, 2, 10, 2000, some 100)]
    ++ [(63, 2, 5, 500, some 50), (65, 1, 25, 250, some 60), (66, 2, 125, 2500, some 500), (68, 2, 50, 5000, some 500)]
    ++ [(70, 1, 10, 250, some 40), (71, 2, 1, 6120, some 200), (73, 1, 0, 200, some 30), (74, 1, 0, 200, some 10)]
    ++ [(75, 1, 0, 100, some 15), (76, 1, 0, 1, some 0), (77, 1, 0, 2, some 1), (78, 2, 32, 256, some 128)]

/-- `s` is what the window clamp of R96 and R97 makes of a candidate `c`: the interval runs from W below the largest projection
up to W above the smallest, and is not formed without a projection; an empty interval, or a forward bound behind the setpoint,
holds the axis; a candidate within the bound stands, and one past it is taken back to it. -/
def Planner.ClampsTo (p : Planner) (projections : List Int) (window : Nat) (c s : Int) : Prop :=
  let d : Int := if p.up then 1 else -1
  (projections = [] → s = c)
    ∧ ∀ most ∈ projections, ∀ least ∈ projections, (∀ x ∈ projections, least ≤ x ∧ x ≤ most) →
        let lower := (most - (window : Int)) * 65536
        let upper := (least + (window : Int)) * 65536
        let bound := if p.up then upper else lower
        (upper < lower → s = p.setpoint)
          ∧ (lower ≤ upper → d * c ≤ d * bound → s = c)
          ∧ (lower ≤ upper → d * bound < d * c → d * p.setpoint ≤ d * bound → s = bound)
          ∧ (lower ≤ upper → d * bound < d * c → d * bound < d * p.setpoint → s = p.setpoint)

end Sys2Proof.Machine

namespace Sys2Proof.Machine.Node

/-- The part takes events (RSTN is high, R171) and no accepted HALT waits to be delivered (R21). -/
abbrev Listening (n : Node) : Prop := n.rstnLow = false ∧ n.rx.halts = []

/-- Nothing follows of itself between ticks: no brake, hold cause or phase is due to change (R72 to R83, R112 to R115, R122,
R147). -/
abbrev Calm (n : Node) : Prop := n.nextConsequence false = none

/-- Nothing is left over of an earlier event: no status event unbuilt within a step, and no consequence outstanding. Every
step ends so (`finish_done`). -/
abbrev Steady (n : Node) : Prop := n.Listening ∧ n.statusEvent = false ∧ n.Calm

/-- What a status event brings (R50): a STATUS is built at once while the allowance is set, and is pending otherwise. -/
def announced (n : Node) : Node :=
  if n.peers.allowance then n.build else { n with peers := { n.peers with pendingBuild := true } }

/-- The part comes to rest in `n.announced` when a step has brought it to `n` with a status event: nothing follows of itself
before the build or after it, and the build itself brings no further event (no tow is judged, R139). -/
abbrev Settles (n : Node) : Prop :=
  n.statusEvent = false ∧ n.Calm ∧ n.announced.Calm ∧ n.announced.statusEvent = false

/-- The status events of a step bring one STATUS (R50): built at once while the allowance is set, which uses it up, and
pending otherwise. `a` is the part with the events' own effects, `b` the part after the step. -/
def StatusFollows (a b : Node) : Prop :=
  (a.peers.allowance = true → b.peers.ownSeq = a.peers.ownSeq + 1 ∧ b.peers.allowance = false)
    ∧ (a.peers.allowance = false → b.peers = { a.peers with pendingBuild := true })

/-- The cue queue as an entry to HALTED leaves it (R85, R118): the head of STOPPING is gone, any other head is marked
interrupted. -/
def haltedQueue (n : Node) : List Cue :=
  if n.cue.phase = .stopping then n.cue.queue.tail
  else match n.cue.queue with
    | [] => []
    | c :: rest => { c with interrupted := true } :: rest

/-- The retired list as an entry to HALTED leaves it (R65, R118): the head of STOPPING is retired CANCELLED. -/
def haltedRetired (n : Node) : List Retired :=
  if n.cue.phase = .stopping then
    match n.cue.queue with
    | [] => n.cue.retired
    | c :: _ => let l := n.cue.retired ++ [{ id := c.id, how := .cancelled }]; l.drop (l.length - 4)
  else n.cue.retired

/-- The part has entered HALTED (R118): `a` before the entry, `b` after the step. The substate is ramping exactly while a
velocity memory is above 0 (R118, R122), the release states are cleared (R76), and a brake stays released only for a moving
axis (R147). -/
def HaltEntered (a b : Node) : Prop :=
  b.cue.phase = .halted ∧ b.cue.queue = a.haltedQueue ∧ b.cue.retired = a.haltedRetired
    ∧ b.cue.ringRelease = none ∧ b.cue.tiltRelease = none
    ∧ (b.cue.ramping = true ↔ 0 < b.ring.velocity ∨ 0 < b.tilt.velocity)
    ∧ ∀ x : Axis, (b.axisDrive x).released = true ↔
        b.faults.has .estop = false ∧ (∃ m, b.headMove x = some m) ∧ 0 < (b.planner x).velocity
          ∧ (x = .ring → b.ringMode = .driven)

/-- What a step leaves as it was when nothing but a halt or a fault comes of it: everything outside the Cue Controller, the
planners' velocity memories, the transmit slots, the counters, the brakes and the own STATUS. -/
def ElsewhereKept (a b : Node) : Prop :=
  b.rx = a.rx ∧ b.supplyScale = a.supplyScale ∧ b.ringMode = a.ringMode ∧ b.inputs = a.inputs ∧ b.monitor = a.monitor
    ∧ b.cfg = a.cfg ∧ b.reportCount = a.reportCount ∧ b.tx.report = a.tx.report ∧ b.tx.random = a.tx.random
    ∧ b.cue.permit = a.cue.permit ∧ b.cue.lastDone = a.cue.lastDone ∧ b.cue.refusal = a.cue.refusal
    ∧ b.drive.reply = a.drive.reply ∧ b.drive.request = a.drive.request
    ∧ b.drive.failedExchanges = a.drive.failedExchanges
    ∧ ∀ x, (b.axisDrive x).raw = (a.axisDrive x).raw ∧ (b.axisDrive x).readFails = (a.axisDrive x).readFails

/-- A fault that is not latched yet is latched, outside STARTING and CONFIG_FAULT (R117): `a` is the part with everything
else that the event does, `b` the part after the step. The wagon halts itself, with the record naming the fault and its own
station (R119, R124); a wagon already HALTED only adds the fault (R120). ESTOP sets both velocity memories to 0 (R125). A HALT
frame is requested (R121): placed into an EMPTY slot under the HALT count, which advances, or merged and counted (R13). -/
def FaultTaken (k : FaultKind) (a b : Node) : Prop :=
  b.faults = a.faults.insert k
    ∧ (∀ x, b.planner x =
        if k = .estop then { a.planner x with velocity := 0 } else a.planner x)
    ∧ (a.cue.phase ≠ .halted →
        a.HaltEntered b ∧ b.cue.haltRecord = some { origin := a.station, reason := .fault k })
    ∧ (a.cue.phase = .halted →
        b.cue.phase = .halted ∧ b.cue.queue = a.cue.queue ∧ b.cue.retired = a.cue.retired
          ∧ b.cue.haltRecord = a.cue.haltRecord
          ∧ (b.cue.ramping = true ↔ a.cue.ramping = true ∧ (0 < b.ring.velocity ∨ 0 < b.tilt.velocity)))
    ∧ (a.tx.halt.state = .empty →
        b.tx.halt = { state := .pending, collisions := 0, replaced := false
                      content := header 4 2 a.groupTag a.groupTag a.station a.cue.haltCount
                        ++ [BitVec.ofNat 8 k.code, BitVec.ofNat 8 a.station] }
          ∧ b.cue.haltCount = a.cue.haltCount + 1 ∧ b.counters.haltsMerged = a.counters.haltsMerged)
    ∧ (a.tx.halt.state ≠ .empty →
        b.tx.halt = a.tx.halt ∧ b.cue.haltCount = a.cue.haltCount
          ∧ b.counters.haltsMerged = a.counters.haltsMerged.bump)
    ∧ a.StatusFollows b ∧ a.ElsewhereKept b

/-- What a HALT from the line does (R123), outside HALTED, STARTING and CONFIG_FAULT: the wagon halts, its record naming the
frame's origin and reason; no fault is latched and no HALT frame is requested. -/
def HaltTaken (m : HaltMessage) (a b : Node) : Prop :=
  a.HaltEntered b ∧ b.cue.haltRecord = some { origin := m.origin, reason := m.reason }
    ∧ b.faults = a.faults ∧ (∀ x, b.planner x = a.planner x) ∧ b.tx.halt = a.tx.halt
    ∧ b.cue.haltCount = a.cue.haltCount ∧ a.StatusFollows b ∧ a.ElsewhereKept b

/-- A hold cause joins the set (R112); in MOVING the phase passes to HOLDING (R114). -/
def withCause (h : HoldCause) (n : Node) : Node :=
  { n with cue := { n.cue with
    holds := n.cue.holds ||| (1 <<< h.bit)
    phase := if n.cue.phase = .moving then .holding else n.cue.phase
    armRunning := if n.cue.phase = .moving then false else n.cue.armRunning } }

/-- A hold cause leaves the set (R112); in HOLDING the phase returns to MOVING once no cause is left, every entry is FRESH and
the permit timer runs (R115). -/
def withoutCause (h : HoldCause) (n : Node) : Node :=
  let holds := n.cue.holds &&& ~~~((1 : HoldSet) <<< h.bit)
  let resumes := decide (n.cue.phase = .holding) && decide (holds = 0) && n.allFresh && n.cue.permit.isSome
  { n with cue := { n.cue with
    holds
    phase := if resumes then .moving else n.cue.phase
    armRunning := if resumes then false else n.cue.armRunning } }

/-- R64, R65: at most four cues, at most four retired records, no two of one id, and no queued id among the retired. -/
def CueLaw (n : Node) : Prop :=
  n.cue.queue.length ≤ 4 ∧ n.cue.retired.length ≤ 4
    ∧ (n.cue.queue.map (·.id) ++ n.cue.retired.map (·.id)).Nodup

/-- R19: the receive queue holds at most eight frames. -/
def ReceiveLaw (n : Node) : Prop := n.rx.queue.length ≤ 8

/-- R92: the supply scale lies between 32 and 256 inclusive. -/
def ScaleLaw (n : Node) : Prop := 32 ≤ n.supplyScale ∧ n.supplyScale ≤ 256

/-- R141, R145: the consecutive failure counts saturate at 2. -/
def FailureLaw (n : Node) : Prop :=
  n.drive.failedExchanges ≤ 2 ∧ n.drive.ring.readFails ≤ 2 ∧ n.drive.tilt.readFails ≤ 2

/-- R159: both runs of every channel lie between 0 and 255, and at most one of them is above 0. -/
def RunLaw (n : Node) : Prop :=
  ∀ c : Fin 8, (n.liveRecord c).outRun ≤ 255 ∧ (n.liveRecord c).inRun ≤ 255
    ∧ ((n.liveRecord c).outRun = 0 ∨ (n.liveRecord c).inRun = 0)

/-- R42: the entries stand in ascending order of station, never two for one station. -/
def EntryLaw (n : Node) : Prop := (n.peers.entries.map (·.station)).Pairwise (· < ·)

/-- R147: a brake output is released only while ESTOP is not latched, for an axis that the head moves, in a phase of motion
under a release state, or in HALTED ramping while its velocity memory is above 0 and, for the ring, the mode is DRIVEN. -/
def BrakeLaw (n : Node) : Prop :=
  ∀ a : Axis, (n.axisDrive a).released = true →
    n.faults.has .estop = false ∧ (∃ m, n.headMove a = some m)
      ∧ ((n.cue.phase = .moving ∨ n.cue.phase = .holding ∨ n.cue.phase = .stopping ∨ n.cue.phase = .settling)
            ∧ n.release a ≠ none
          ∨ n.cue.phase = .halted ∧ n.cue.ramping = true ∧ 0 < (n.planner a).velocity
            ∧ (a = .ring → n.ringMode = .driven))

/-- R111, R112: PERMIT is present exactly while the permit timer is not running; outside STARTING and CONFIG_FAULT each
other cause is present exactly while its condition holds, and in those two phases it is absent. -/
def HoldLaw (n : Node) : Prop :=
  let served := n.cue.phase ≠ .starting ∧ n.cue.phase ≠ .configFault
  (n.cue.holds.has .permit = true ↔ n.cue.permit = none)
    ∧ (n.cue.holds.has .peer = true ↔
        served ∧ ∃ e ∈ n.peers.entries, e.freshness = .stale ∨ e.freshness = .lost)
    ∧ (n.cue.holds.has .personnel = true ↔ served ∧ n.deckClear = false)
    ∧ (n.cue.holds.has .stowed = true ↔ served ∧ n.seatsStowed = false ∧ ∃ m, n.headMove .tilt = some m)
    ∧ (n.cue.holds.has .monitor = true ↔
        served ∧ ∃ c : Fin 8, (n.liveRecord c).tripped = true ∧ Live.channelAction n.live c = actionHold)

/-- R114, R118, R119, R126: a latched fault stands only in HALTED, or in STARTING and CONFIG_FAULT where a soft reset has
kept it. -/
def FaultLaw (n : Node) : Prop :=
  n.faults ≠ 0 → n.cue.phase = .halted ∨ n.cue.phase = .starting ∨ n.cue.phase = .configFault

/-- R114: in MOVING the permit timer runs, no hold cause is present, no fault is latched and every entry is FRESH. -/
def MovingLaw (n : Node) : Prop :=
  n.cue.phase = .moving →
    n.cue.permit ≠ none ∧ n.cue.holds = 0 ∧ n.faults = 0 ∧ ∀ e ∈ n.peers.entries, e.freshness = .fresh

/-- R76, R91, R95, R97, R106, R133: in ARMED, DONE and every phase of motion there is a head; a towed ring has velocity
memory 0; and the target lies at or ahead of the setpoint, in the direction of travel, for every axis with a velocity memory
above 0 and for every axis that the head moves in a phase of motion, a towed ring apart. -/
def CourseLaw (n : Node) : Prop :=
  (n.cue.phase.drawing = true ∨ n.cue.phase = .done → n.cue.queue ≠ [])
    ∧ (n.ringMode = .towed → n.ring.velocity = 0)
    ∧ ∀ a : Axis,
        (0 < (n.planner a).velocity
          ∨ n.cue.phase.inMotion = true ∧ (∃ m, n.headMove a = some m) ∧ (a = .ring → n.ringMode = .driven)) →
        0 ≤ (n.planner a).remaining

/-- R67, R70, R87, R108, R109: in service the live copy passes its range checks (R170), each axis has its setpoint and its target
within its soft limits and a velocity memory of at most the cruise step at the configured maximum, and each queued cue asks
for targets within the limits at resolved speeds; out of service no cue is queued, and in STARTING no frame waits (R24). -/
def LimitLaw (n : Node) : Prop :=
  let live := n.cfg.live
  (n.inService = false → n.cue.queue = []) ∧ (n.cue.phase = .starting → n.rx.queue = [])
    ∧ (n.inService = true → fieldsGood live = true ∧ ∀ a : Axis,
        let p := n.planner a
        let low := (Live.softLimits live a).1
        let high := (Live.softLimits live a).2
        low * 65536 ≤ p.setpoint ∧ p.setpoint ≤ high * 65536 ∧ low * 65536 ≤ p.target ∧ p.target ≤ high * 65536
          ∧ p.velocity ≤ speedStep (Live.cruiseMax live a)
          ∧ ∀ c ∈ n.cue.queue, ∀ m, (match a with | .ring => c.ring | .tilt => c.tilt) = some m →
              low ≤ m.target ∧ m.target ≤ high ∧ m.speed ≤ Live.cruiseMax live a)

/-- In every phase of motion no entry is ABSENT: the start needs every entry FRESH (R55, R75). -/
def HeardLaw (n : Node) : Prop :=
  n.cue.phase.inMotion = true → ∀ e ∈ n.peers.entries, e.freshness ≠ .absent

end Sys2Proof.Machine.Node
end

