-- ==== Sys2Proof/Certificates/Slice0/Obligations.lean ====
section
/-! DEFINITION. The statements for the provers. Each docstring names the rules of spec/ it rests on, and the log entry of a
convention of the model where it rests on one. -/

section

open Sys2Proof Sys2Proof.Machine

/-! ## The machine -/

/-- A step takes the command at the front of the queue and runs it on the state with the queue's rest; on an empty queue the
part idles (log entry 8). -/
def Obligations.StepTakesFrontCommand : Prop :=
  (∀ (c : Instr) (rest : List Instr) (s : State), s.pending = c :: rest →
      step s = exec c { s with pending := rest })
    ∧ ∀ s : State, s.pending = [] → step s = .next s

/-- The part never stops: every fault of the spec is latched and the part goes on (R117), so every command, in every state,
answers a next state, with the queue of waiting commands as it was. -/
def Obligations.EveryCommandAnswers : Prop :=
  ∀ (c : Instr) (s : State), ∃ n : Node, exec c s = .next { s with node := n }

/-- What the rules make as soon as its conditions hold is made within the step: after every step of a part that takes events,
no head is left to arm (R72), no armed head to fail or to start (R74, R75), no move to hold or to settle (R77, R114), no held
move to resume (R115), no stop to complete (R83), no head to retire (R80), no ramp to end (R122). -/
def Obligations.NothingIsLeftOutstanding : Prop :=
  ∀ (c : Instr) (s t : State), s.node.rstnLow = false → c ≠ .rstnHeldLow → exec c s = .next t →
    let n := t.node
    (n.cue.phase = .idle → n.cue.queue = [] ∨ n.faults ≠ 0 ∨ ∃ e ∈ n.peers.entries, e.freshness ≠ .fresh)
      ∧ (n.cue.phase = .armed →
          n.refusedByPeer n.currentCue = false
            ∧ ¬(n.allArmed n.currentCue = true ∧ n.cue.permit ≠ none ∧ n.cue.holds = 0))
      ∧ (n.cue.phase = .moving →
          n.cue.holds = 0
            ∧ ∃ a m, n.headMove a = some m
                ∧ ¬(n.release a = some .released ∧ (n.planner a).setpoint = (n.planner a).target
                      ∧ (a = .ring → n.ringMode = .driven)))
      ∧ (n.cue.phase = .holding →
          ¬(n.cue.holds = 0 ∧ n.cue.permit ≠ none ∧ ∀ e ∈ n.peers.entries, e.freshness = .fresh))
      ∧ (n.cue.phase = .stopping → ∃ a m, n.headMove a = some m ∧ 0 < (n.planner a).velocity)
      ∧ (n.cue.phase = .done → n.allDone n.currentCue = false)
      ∧ (n.cue.phase = .halted → n.cue.ramping = true → 0 < n.ring.velocity ∨ 0 < n.tilt.velocity)

/-- A command whose event cannot occur as the part stands changes nothing (log entry 10): a step of a tick's without its mark
(log entry 1), a completion of nothing under way, a frame's step without that frame at the head of the queue and still to be
applied, the end of a transmission, a jam or a backoff that is not there, a part of a start or a burst out of its place, and an
upset outside bytes 21 to 79 of the live copy (R176). -/
def Obligations.NoEventNoChange : Prop :=
  ∀ s : State, s.node.Steady →
    let n := s.node
    let head (kind : Nat) := ∃ f rest, n.rx.queue = f :: rest ∧ frameKind f = kind ∧ n.rx.head.fate = none
    (.statusPeriod ∉ n.due → exec .statusPeriodExpiry s = .next s)
      ∧ (∀ st, .peerStale st ∉ n.due → exec (.peerEntryStale st) s = .next s)
      ∧ (∀ st, .peerLost st ∉ n.due → exec (.peerEntryLost st) s = .next s)
      ∧ (.arm ∉ n.due → exec .armTimerExpiry s = .next s)
      ∧ (.permit ∉ n.due → exec .permitTimerExpiry s = .next s)
      ∧ (∀ a, .brake a ∉ n.due → exec (.brakeTimerExpiry a) s = .next s)
      ∧ (.recheck ∉ n.due → exec .recheckTimerExpiry s = .next s)
      ∧ (∀ a, .pinch a ∉ n.due → exec (.pinchLimit a) s = .next s)
      ∧ (.settle ∉ n.due → exec .settleCountReached s = .next s)
      ∧ (∀ c, .trip c ∉ n.due → exec (.monitorTrip c) s = .next s)
      ∧ (∀ c, .untrip c ∉ n.due → exec (.monitorUntrip c) s = .next s)
      ∧ (n.drive.exchanging = false → ∀ reply, exec (.driveExchangeComplete reply) s = .next s)
      ∧ (∀ a, (n.axisDrive a).reading = false → ∀ v, exec (.sensorReadComplete a v) s = .next s)
      ∧ (n.monitor.turn = none ∨ n.monitor.converting = none → ∀ r, exec (.monitorConversion r) s = .next s)
      ∧ (¬head 1 → exec .status s = .next s) ∧ (¬head 2 → exec .cue s = .next s) ∧ (¬head 3 → exec .permit s = .next s)
      ∧ (¬head 5 → exec .clearLatchPart s = .next s ∧ exec .clearFaultPart s = .next s ∧ exec .clearTowPart s = .next s)
      ∧ (¬head 6 → exec .cancel s = .next s) ∧ (¬head 7 → exec .inquire s = .next s)
      ∧ (¬head 9 → ∀ straps, exec (.reset straps) s =
          .next { s with node := { n with cfg := { n.cfg with strapPins := straps } } })
      ∧ exec .halt s = .next s
      ∧ (n.rx.queue = [] → exec .frameComplete s = .next s)
      ∧ ((∀ k, (n.slot k).state ≠ .sending) → exec .transmitSuccess s = .next s ∧ exec .jamEnd s = .next s
          ∧ ∀ cell, exec (.collision cell) s = .next s)
      ∧ (∀ k, (∀ t, (n.slot k).state ≠ .backoff t) → exec (.backoffEnd k) s = .next s)
      ∧ (∀ k, (n.slot k).state = .sending → ∀ quiet, exec (.arbiterStart quiet) s = .next s)
      ∧ (n.cue.phase ≠ .starting ∨ n.cfg.read ≠ .waiting → exec .configReadStart s = .next s)
      ∧ (n.cue.phase ≠ .starting ∨ n.cfg.read ≠ .reading → ∀ bytes, exec (.configReadComplete bytes) s = .next s)
      ∧ (∀ address value, n.inService = false ∨ address < 21 ∨ 79 < address →
          exec (.liveCopyAlteration address value) s = .next s)
      ∧ (n.rx.mode ≠ .quiet → exec .burstStart s = .next s ∧ ∀ quiet, exec (.arbiterStart quiet) s = .next s)
      ∧ (n.rx.mode ≠ .hunt → exec .startByteFound s = .next s)
      ∧ (n.rx.mode = .quiet → ∀ bytes part, exec (.frameEnd bytes part) s = .next s)

/-! ## Reset and power -/

/-- The machine after reset obeys every law of Safety.lean.
The straps and the first samples of the input pins are 0 there (log entry 7). -/
def Obligations.ResetObeysLaws : Prop :=
  let n := State.reset.node
  n.CueLaw ∧ n.ReceiveLaw ∧ n.ScaleLaw ∧ n.FailureLaw ∧ n.RunLaw ∧ n.EntryLaw ∧ n.BrakeLaw ∧ n.HoldLaw ∧ n.FaultLaw
    ∧ n.MovingLaw ∧ n.HeardLaw ∧ n.CourseLaw ∧ n.LimitLaw

/-- POWER_ON gives every block its power-on values, samples the straps and the first level of each input pin, and enters
STARTING with the power-up wait running (the power-on columns of R24, R61, R87, R110, R128, R130, R157, R168, R179, R184). That
the own entry stands alone in the table, with no peer entry, is the model's choice (DESIGN CHOICE, log entry 20). -/
def Obligations.PowerOnSetsEveryBlock : Prop :=
  ∀ (straps : BitVec 5) (pins : BitVec 8) (s : State), ∃ n : Node,
    exec (.powerOn straps pins) s = .next { s with node := n }
      ∧ n.rstnLow = false ∧ n.cue.phase = .starting ∧ n.cfg.straps = straps ∧ n.cfg.read = .waiting
      ∧ n.cfg.mcsLow = false ∧ n.tx.driving = []
      ∧ (∀ k, (n.slot k).state = .empty ∧ (n.slot k).collisions = 0)
      ∧ n.rx.queue = [] ∧ n.rx.mode = .quiet ∧ n.rx.quietTime = 0 ∧ n.tx.random = 1 ∧ n.rx.clashAge = 65535
      ∧ (∀ c ∈ n.counters.page, c = 0)
      ∧ (∀ e ∈ n.peers.entries, e.station = straps.toNat ∧ e.freshness = .fresh ∧ e.age = 0 ∧ e.lastSeq = 0
          ∧ e.content = .zero)
      ∧ n.peers.ownSeq = 0 ∧ n.peers.timer = none ∧ n.peers.allowance = true ∧ n.peers.pendingBuild = false
      ∧ n.cue.queue = [] ∧ n.cue.retired = [] ∧ n.cue.lastDone = 0 ∧ n.cue.refusal = { id := 0, reason := .none }
      ∧ n.cue.armRunning = false ∧ n.cue.settleCount = 0 ∧ n.cue.ringRelease = none ∧ n.cue.tiltRelease = none
      ∧ (∀ h : HoldCause, n.cue.holds.has h = true ↔ h = .permit)
      ∧ n.cue.permit = none ∧ n.cue.haltRecord = none ∧ n.cue.haltCount = 0
      ∧ (∀ a, (n.planner a).velocity = 0 ∧ (n.planner a).target = (n.planner a).setpoint ∧ (n.planner a).up = true
          ∧ (n.planner a).pinch = 0)
      ∧ n.supplyScale = 256 ∧ n.faults = 0 ∧ n.ringMode = .driven
      ∧ (∀ a, (n.axisDrive a).raw = 0 ∧ (n.axisDrive a).readFails = 0 ∧ (n.axisDrive a).released = false
          ∧ (n.axisDrive a).supervision = .unsupervised)
      ∧ n.drive.reply = { ringReady := false, tiltReady := false, faultCode := 0 } ∧ n.drive.failedExchanges = 0
      ∧ n.inputs.levels = pins ∧ n.inputs.changed = 0 ∧ n.inputs.attention = false
      ∧ (∀ c, n.liveRecord c = { last := 0, outRun := 0, inRun := 0, tripped := false }) ∧ n.monitor.turn = none
      ∧ n.cfg.status = .valid ∧ n.cfg.startDigest = 0 ∧ n.cfg.lastDigest = 0 ∧ n.cfg.recheck = none
      ∧ n.reportCount = 0

/-- While RSTN is held low TXD is not driven, the brake outputs are low, the links are idle and a read under way is
abandoned, with MCS high; and the part takes no event but the rise of RSTN (R171). The blocks' other state stands until the rise
gives it its power-on values (DEDUCED, log entry 12). -/
def Obligations.RstnLowStopsEverything : Prop :=
  (∀ s : State, ∃ n : Node,
      exec .rstnHeldLow s = .next { s with node := n }
        ∧ n.rstnLow = true ∧ n.tx.driving = [] ∧ (∀ k, (n.slot k).state ≠ .sending)
        ∧ (∀ a, (n.axisDrive a).released = false ∧ (n.axisDrive a).reading = false) ∧ n.drive.exchanging = false
        ∧ n.cfg.read = .idle ∧ n.cfg.mcsLow = false ∧ n.cfg.msi = []
        ∧ n.rx = s.node.rx ∧ n.peers = s.node.peers ∧ n.cue = s.node.cue ∧ n.ring = s.node.ring ∧ n.tilt = s.node.tilt
        ∧ n.faults = s.node.faults ∧ n.inputs = s.node.inputs ∧ n.monitor = s.node.monitor
        ∧ n.counters = s.node.counters)
    ∧ ∀ (c : Instr) (s : State), s.node.rstnLow = true → c ≠ .rstnHeldLow → (∀ straps pins, c ≠ .powerOn straps pins) →
        exec c s = .next s

/-! ## Start -/

/-- The configuration read (R169 to R171, section 10.1). CONFIG_READ_START ends the power-up wait of STARTING: MCS goes low,
0x03 and 0x0000 go out on MSI, and nothing else changes. At the completion the live copy is formed from the 148 bytes: a
group-common field with a default whose stored bytes are all 0xFF takes its default, and every other byte is as stored. The read
is then judged by the checks of R170, in their order, the first that fails giving the status: the CRCs of both blocks on the
bytes read, the ranges on the live copy, the station, and TOW on a channel other than 1. An erased ring_min or ring_max, three 0xFF
bytes, is out of its range (R169; DEDUCED, log entry 30). -/
def Obligations.ConfigReadFormsAndJudges : Prop :=
  (∀ s : State, s.node.Steady → s.node.cue.phase = .starting → s.node.cfg.read = .waiting →
      exec .configReadStart s = .next { s with node := { s.node with cfg := { s.node.cfg with
        read := .reading, mcsLow := true, msi := [0x03, 0x00, 0x00] } } })
    ∧ (∀ raw : List Byte, raw.length = 148 →
        let live := formLiveCopy raw
        live.length = 148
          ∧ (∀ offset width low high default, (offset, width, low, high, some default) ∈ recordTable →
              ((∀ i, i < width → byteAt raw (offset + i) = 0xFF) → field live offset width = default)
                ∧ ((∃ i, i < width ∧ byteAt raw (offset + i) ≠ 0xFF) →
                    ∀ i, i < width → byteAt live (offset + i) = byteAt raw (offset + i)))
          ∧ ∀ i, (∀ offset width low high default, (offset, width, low, high, some default) ∈ recordTable →
                i < offset ∨ offset + width ≤ i) →
              byteAt live i = byteAt raw i)
    ∧ ∀ (raw : List Byte) (straps : BitVec 5),
        let live := formLiveCopy raw
        let signed (offset width : Nat) : Int := signedOf (8 * width) (field live offset width)
        let size := field live 21 1
        let mask := field live 23 4
        let crcs := raw.length = 148 ∧ (crc16 (raw.take 96)).toNat = field raw 96 2
          ∧ (crc16 ((raw.drop 98).take 48)).toNat = field raw 146 2
        let ranges := (∀ offset width low high default, (offset, width, low, high, default) ∈ recordTable →
              low ≤ field live offset width ∧ field live offset width ≤ high)
          ∧ -360000 ≤ signed 7 3 ∧ signed 7 3 ≤ 360000
          ∧ (∀ c : Nat, c < 8 → field live (13 + c) 1 < 8 ∧ field live (80 + 2 * c) 2 ≤ 4095
              ∧ signed (100 + 6 * c) 2 ≤ signed (102 + 6 * c) 2)
          ∧ (∀ i, size ≤ i → mask.testBit i = false) ∧ (∃ i j, i < j ∧ mask.testBit i = true ∧ mask.testBit j = true)
          ∧ field live 28 1 < field live 29 1
          ∧ -180000 ≤ signed 50 3 ∧ signed 50 3 < signed 53 3 ∧ signed 53 3 ≤ 180000
          ∧ field live 50 3 ≠ 0xFFFFFF ∧ field live 53 3 ≠ 0xFFFFFF
        let station := straps.toNat < size ∧ mask.testBit straps.toNat = true
        let channels := ∀ c : Nat, c < 8 → c ≠ 1 → field live (13 + c) 1 / 2 % 4 ≠ 3
        (¬crcs → judgeConfig raw straps = .crc)
          ∧ (crcs → ¬ranges → judgeConfig raw straps = .field)
          ∧ (crcs → ranges → ¬station → judgeConfig raw straps = .station)
          ∧ (crcs → ranges → station → ¬channels → judgeConfig raw straps = .channel)
          ∧ (crcs → ranges → station → channels → judgeConfig raw straps = .valid)

/-- CONFIG_READ_COMPLETE of a record that fails a check of R170: CONFIG_FAULT, with the status of the first check that
fails, both digests 0, the own entry alone, the random source seeded from tag 0 and the straps, and the first STATUS built at
once under tag 0; the latched faults stand and the brakes are applied (R9, R53, R173). -/
def Obligations.InvalidReadGivesConfigFault : Prop :=
  ∀ (bytes : List Byte) (s : State),
    s.node.Listening → s.node.cue.phase = .starting → s.node.cfg.read = .reading →
    s.node.peers.allowance = true → s.node.tx.status.state = .empty →
    judgeConfig bytes s.node.cfg.straps ≠ .valid →
    ∃ n : Node, exec (.configReadComplete bytes) s = .next { s with node := n }
      ∧ n.cue.phase = .configFault ∧ n.cfg.status = judgeConfig bytes s.node.cfg.straps
      ∧ n.cfg.raw = bytes ∧ n.cfg.read = .idle ∧ n.cfg.mcsLow = false ∧ n.cfg.startDigest = 0 ∧ n.cfg.lastDigest = 0 ∧ n.cfg.recheck = none ∧ n.groupTag = 0
      ∧ n.peers.entries.map (·.station) = [s.node.cfg.straps.toNat]
      ∧ n.tx.random = (if s.node.cfg.straps = 0 then 1 else s.node.cfg.straps.setWidth 16)
      ∧ n.tx.status.state = .pending ∧ frameKind n.tx.status.content = 1 ∧ frameDest n.tx.status.content = 0
      ∧ frameSource n.tx.status.content = 0 ∧ frameStation n.tx.status.content = s.node.cfg.straps.toNat
      ∧ frameSeq n.tx.status.content = s.node.peers.ownSeq + 1
      ∧ n.peers.ownSeq = s.node.peers.ownSeq + 1 ∧ n.peers.allowance = false
      ∧ n.faults = s.node.faults ∧ (∀ a, (n.axisDrive a).released = false)
      ∧ n.rx = s.node.rx ∧ n.ring = s.node.ring ∧ n.tilt = s.node.tilt ∧ n.cue.queue = s.node.cue.queue
      ∧ n.monitor = s.node.monitor

/-- CONFIG_READ_COMPLETE of a VALID record, with no fault kept and the emergency-stop chain closed: IDLE, and every block
takes the configuration up by its own rule (R9, R43, R61, R110, R148, R160, R174). With the build allowance set and the STATUS
slot EMPTY, as every reset leaves them, the first STATUS is built at once under the next own sequence and says what the own entry
then holds (R50, R51, R52). -/
def Obligations.ValidReadStartsWagon : Prop :=
  ∀ (bytes : List Byte) (s : State),
    s.node.Listening → s.node.cue.phase = .starting → s.node.cfg.read = .reading →
    judgeConfig bytes s.node.cfg.straps = .valid → s.node.faults = 0 → s.node.chainClosed = true →
    s.node.cue.queue = [] → (∀ a, (s.node.axisDrive a).released = false) →
    let live := formLiveCopy bytes
    let own := s.node.cfg.straps.toNat
    let measured (a : Axis) : Int :=
      match a with
      | .ring => s.node.drive.ring.raw + Live.homeOffset live
      | .tilt => s.node.drive.tilt.raw
    ∃ n : Node, exec (.configReadComplete bytes) s = .next { s with node := n }
      ∧ n.cue.phase = .idle ∧ n.cfg.status = .valid ∧ n.cfg.live = live
      ∧ n.cfg.raw = bytes ∧ n.cfg.read = .idle ∧ n.cfg.mcsLow = false
      ∧ n.cfg.startDigest = digestOf live ∧ n.cfg.lastDigest = digestOf live ∧ n.cfg.recheck = some 256
      ∧ n.peers.map = { closed := Live.ringClosed live, fitted := (List.range 24).filter (Live.isFitted live) }
      ∧ n.peers.entries.map (·.station) = (List.range 24).filter (Live.isFitted live)
      ∧ (∀ e ∈ n.peers.entries, e.station ≠ own →
          e.freshness = .absent ∧ e.age = 0 ∧ e.lastSeq = 0 ∧ e.content = .zero)
      ∧ n.tx.random = (let g := BitVec.ofNat 16 (Live.groupTag live % 2048 * 32 + own); if g = 0 then 1 else g)
      ∧ (∀ a, n.planner a =
          { setpoint := limitTo (Live.softLimits live a) (measured a) * 65536, velocity := 0
            target := limitTo (Live.softLimits live a) (measured a) * 65536, up := true, pinch := 0 })
      ∧ (∀ a, (n.axisDrive a).supervision = (if s.node.brakeLifted a then .changing else .agreed)
          ∧ (s.node.brakeLifted a = true → (n.axisDrive a).brakeTimer = Live.brakeTicks live))
      ∧ n.monitor.turn = channels.find? (Live.channelEnabled live)
      ∧ n.faults = 0 ∧ n.ringMode = s.node.ringMode ∧ n.rx = s.node.rx ∧ n.cue.permit = s.node.cue.permit
      ∧ (s.node.peers.allowance = true → s.node.tx.status.state = .empty →
          let seq := s.node.peers.ownSeq + 1
          let content : Content :=
            { phase := .idle, ringMode := n.ringMode, attention := n.inputs.attention, haltedRamping := false
              holds := n.cue.holds, faults := 0, current := 0, lastDone := n.cue.lastDone
              ringPos := measured .ring, ringVel := 0, tilt := measured .tilt, tiltVel := 0, demand := 0
              digest := digestOf live, refusal := n.cue.refusal }
          n.peers.ownSeq = seq ∧ n.peers.allowance = false ∧ n.peers.pendingBuild = false
            ∧ n.peers.timer = some (Live.statusPeriod live)
            ∧ { station := own, freshness := .fresh, age := 0, lastSeq := seq, content } ∈ n.peers.entries
            ∧ n.tx.status = { state := .pending, collisions := 0, replaced := false
                              content := header 1 24 (Live.groupTag live) (Live.groupTag live) own seq
                                ++ statusPayload content })

/-- A VALID read with faults kept, or with the emergency-stop chain open: HALTED stopped. With faults kept the halt record
names the own station and the lowest code, and with the chain closed the HALT slot is not touched (R128). With the chain open
ESTOP joins the set; where no fault was kept it writes the record and requests its HALT (R119, R151). -/
def Obligations.StartWithFaultHalts : Prop :=
  ∀ (bytes : List Byte) (s : State),
    s.node.Listening → s.node.cue.phase = .starting → s.node.cfg.read = .reading →
    judgeConfig bytes s.node.cfg.straps = .valid → s.node.faults ≠ 0 ∨ s.node.chainClosed = false →
    s.node.cue.queue = [] → s.node.tx.halt.state = .empty →
    ∃ n : Node, exec (.configReadComplete bytes) s = .next { s with node := n }
      ∧ n.cue.phase = .halted ∧ n.cue.ramping = false ∧ n.ring.velocity = 0 ∧ n.tilt.velocity = 0
      ∧ n.faults = (if s.node.chainClosed then s.node.faults else s.node.faults.insert .estop)
      ∧ (s.node.faults ≠ 0 →
          ∃ k, s.node.faults.has k = true ∧ (∀ j, s.node.faults.has j = true → k.code ≤ j.code)
            ∧ n.cue.haltRecord = some { origin := s.node.cfg.straps.toNat, reason := .fault k })
      ∧ (s.node.chainClosed = true → n.tx.halt = s.node.tx.halt ∧ n.cue.haltCount = s.node.cue.haltCount)
      ∧ (s.node.faults = 0 →
          n.cue.haltRecord = some { origin := s.node.cfg.straps.toNat, reason := .fault .estop }
            ∧ n.tx.halt.state = .pending ∧ n.cue.haltCount = s.node.cue.haltCount + 1)

/-! ## The control tick -/

/-- A control tick (R20, R50, R90) takes what is due by it, sets the build allowance, and has every block act once, each followed
by what its act brings on, in an order that is an operand of the command and has the planners before the blocks that use their
setpoints (R140, R146; log entries 1 and 2); the tick's STATUS is built last. What is due by it: the steps the tick before
brought on, the drive exchange and the reads that have not completed, and the frame at the head of the receive queue, which the
tick takes as its own command would. So in every phase and for every order the clash age goes up by one (R18), a drive link
exchange and a read of each sensor begin (R140, R144), and the request carries the setpoints the planners hold after the tick,
the ring's in the amplifier's frame; without a valid configuration it carries the held raw values, not enabled (R140). -/
def Obligations.TickRunsEveryBlock : Prop :=
  (∀ (order : List TickBlock) (s : State), s.node.Listening →
      let n : Node := { s.node.beforeTick with peers := { s.node.beforeTick.peers with allowance := true } }
      exec (.controlTick order) s =
        .next { s with node :=
          (Node.finish true ((schedule order).foldl (fun n b => Node.settled true (n.runBlock b)) n)) })
    ∧ (∀ n : Node,
        n.runBlock .clashAge = n.ageClash ∧ n.runBlock .peerAging = n.agePeers
          ∧ n.runBlock .statusTimer = n.lowerStatusTimer ∧ n.runBlock .permitTimer = n.lowerPermitTimer
          ∧ n.runBlock .armTimer = n.lowerArmTimer ∧ n.runBlock .settleCount = n.countSettle
          ∧ n.runBlock .planners = (n.rescale.planAxis .ring).planAxis .tilt ∧ n.runBlock .skewCheck = n.skewCheck
          ∧ n.runBlock .brakeTimers = (n.superviseBrake .ring).superviseBrake .tilt
          ∧ n.runBlock .towLogic = n.decideTow ∧ n.runBlock .tiltDriveCheck = n.judgeTiltDrive
          ∧ n.runBlock .limitCheck = n.checkLimits ∧ n.runBlock .recheckTimer = n.lowerRecheckTimer
          ∧ n.runBlock .followCheck = n.checkFollow
          ∧ n.runBlock .monitorTurn = { n with monitor := { n.monitor with
              converting := if n.inService = true ∧ n.monitor.turn ≠ none then some n.drive.tilt.raw else none } }
          ∧ (∀ d, n.runBlock (.expiry d) = Node.finish false (n.takeDue d))
          ∧ ∀ r, n.runBlock (.conversion r) = Node.finish false (n.convert r))
    ∧ (∀ s : State, s.node.Steady →
        let n := s.node
        let idle := n.drive.exchanging = false ∧ n.drive.ring.reading = false ∧ n.drive.tilt.reading = false
        (idle → n.rx.queue = [] → n.beforeTick = n.due.foldl (fun m d => Node.finish false (m.takeDue d)) n)
          ∧ (n.due = [] → n.rx.queue = [] →
              ∀ a b c, (if n.drive.exchanging then exec (.driveExchangeComplete none) s else .next s) = .next a →
                (if a.node.drive.ring.reading then exec (.sensorReadComplete .ring none) a else .next a) = .next b →
                (if b.node.drive.tilt.reading then exec (.sensorReadComplete .tilt none) b else .next b) = .next c →
                n.beforeTick = c.node)
          ∧ (n.due = [] → idle → ∀ f rest, n.rx.queue = f :: rest →
              let takes (c : Instr) := exec c s = .next { s with node := n.beforeTick }
              (n.headFate ≠ none → takes .frameComplete)
                ∧ (n.headFate = none →
                    (frameKind f = 1 → takes .status) ∧ (frameKind f = 2 → takes .cue) ∧ (frameKind f = 3 → takes .permit)
                      ∧ (frameKind f = 5 → ∀ a b c, exec .clearLatchPart s = .next a → exec .clearFaultPart a = .next b →
                          exec .clearTowPart b = .next c → n.beforeTick = c.node)
                      ∧ (frameKind f = 6 → takes .cancel) ∧ (frameKind f = 7 → takes .inquire)
                      ∧ (frameKind f = 9 → takes (.reset n.cfg.strapPins)))))
    ∧ (∀ (order : List TickBlock) (b : TickBlock), b ∈ everyBlock →
      (schedule order).count b = 1
        ∧ ((b = .followCheck ∨ b = .exchange) →
            ∃ before after, schedule order = before ++ b :: after ∧ .planners ∈ before))
    ∧ ∀ (order : List TickBlock) (s : State), s.node.Listening →
    ∃ n : Node, exec (.controlTick order) s = .next { s with node := n }
      ∧ n.rx.clashAge = s.node.rx.clashAge.bump
      ∧ n.drive.exchanging = true ∧ (∀ a, (n.axisDrive a).reading = true)
      ∧ (n.inService = true →
          n.drive.request.ringSetpoint = wholeUnits n.ring.setpoint - Live.homeOffset n.cfg.live
            ∧ n.drive.request.tiltSetpoint = wholeUnits n.tilt.setpoint)
      ∧ (n.inService = false →
          n.drive.request = { ringEnable := false, tiltEnable := false, ringSetpoint := n.drive.ring.raw
                              tiltSetpoint := n.drive.tilt.raw, ringFeed := 0, tiltFeed := 0 })

/-- A tick of a wagon without a valid configuration, with no frame waiting: no axis is planned, the supply scale stands, no
fault is latched and no hold cause but PERMIT appears, and the phase stands (R53, R90, R92, R112, R117, R173). -/
def Obligations.TickPlansNothingOutOfService : Prop :=
  ∀ (order : List TickBlock) (s : State), s.node.Listening →
    s.node.cue.phase = .starting ∨ s.node.cue.phase = .configFault → s.node.rx.queue = [] → s.node.due = [] →
    ∃ n : Node, exec (.controlTick order) s = .next { s with node := n }
      ∧ n.ring = s.node.ring ∧ n.tilt = s.node.tilt ∧ n.supplyScale = s.node.supplyScale
      ∧ n.faults = s.node.faults ∧ n.cue.phase = s.node.cue.phase ∧ n.cue.queue = s.node.cue.queue
      ∧ (∀ h : HoldCause, h ≠ .permit → n.cue.holds.has h = false)
      ∧ (∀ a, (n.axisDrive a).released = false)
      ∧ n.rx = { s.node.rx with clashAge := s.node.rx.clashAge.bump } ∧ n.ringMode = s.node.ringMode
      ∧ n.inputs = s.node.inputs ∧ n.cfg.live = s.node.cfg.live

/-- What the other blocks see of the Peer Table (R43, R48, R55, R56, R58, R60, R139). A fitted station's below neighbour is the nearest fitted one under it, and
its above neighbour the nearest over it; in a closed ring the lowest and the highest find each other, and in an open arc they have
none; the ring neighbours are those two, once where they are one, and adjacency holds both ways. The projection of a
neighbour is its reported position, moved on for a FRESH entry by its reported velocity over its age, at most one status
period, and rounded toward zero; an ABSENT entry has none. all_armed, all_done and refused_by_peer are of every entry of the table as
their rules list them. The towed set is that of the entries not ABSENT that show TOWED, and
it breaks the limits with two adjacent stations or with more than tow_max. -/
def Obligations.PeerTableViews : Prop :=
  (∀ (m : RingMap) (s : Nat), m.fitted.Pairwise (· < ·) → s ∈ m.fitted →
      (∀ b, m.below s = some b ↔
          b ∈ m.fitted ∧ ((b < s ∧ ∀ i ∈ m.fitted, i < s → i ≤ b)
            ∨ (m.closed = true ∧ (∀ i ∈ m.fitted, s ≤ i) ∧ s < b ∧ ∀ i ∈ m.fitted, i ≤ b)))
        ∧ (∀ b, m.above s = some b ↔
          b ∈ m.fitted ∧ ((s < b ∧ ∀ i ∈ m.fitted, s < i → b ≤ i)
            ∨ (m.closed = true ∧ (∀ i ∈ m.fitted, i ≤ s) ∧ b < s ∧ ∀ i ∈ m.fitted, b ≤ i)))
        ∧ (m.neighbours s).Nodup ∧ (∀ x, x ∈ m.neighbours s ↔ m.below s = some x ∨ m.above s = some x)
        ∧ (∀ x, m.adjacent s x = true ↔ x ∈ m.neighbours s)
        ∧ ∀ x ∈ m.fitted, m.adjacent x s = m.adjacent s x)
    ∧ ∀ n : Node, n.EntryLaw →
        let towed (e : Entry) := e.freshness ≠ .absent ∧ e.content.ringMode = .towed
        (∀ (a : Axis) (x : Int), n.inService = true →
            (x ∈ n.projections a ↔ ∃ e ∈ n.peers.entries, e.station ∈ n.peers.map.neighbours n.station ∧
              let reported : Int := match a with | .ring => e.content.ringPos | .tilt => e.content.tilt
              let speed : Int := match a with | .ring => e.content.ringVel | .tilt => e.content.tiltVel
              let ticks : Nat := min e.age.toNat (Live.statusPeriod n.cfg.live)
              (e.freshness = .fresh ∧ x = reported + (speed * ticks * 4).tdiv 1000)
                ∨ ((e.freshness = .stale ∨ e.freshness = .lost) ∧ x = reported)))
          ∧ (∀ st, st ∈ n.towedSet ↔ ∃ e ∈ n.peers.entries, e.station = st ∧ towed e)
          ∧ n.towedSet.Nodup
          ∧ (∀ c : CueId, n.allArmed c = true ↔ ∀ e ∈ n.peers.entries, e.freshness = .fresh ∧ (e.content.lastDone = c
              ∨ e.content.current = c ∧ (e.content.phase = .armed ∨ e.content.phase = .moving
                  ∨ e.content.phase = .holding ∨ e.content.phase = .settling ∨ e.content.phase = .done)))
          ∧ (∀ c : CueId, n.allDone c = true ↔ ∀ e ∈ n.peers.entries, e.content.lastDone = c
              ∨ (e.content.current = c ∧ e.content.phase = .done) ∨ e.freshness = .lost
              ∨ (e.freshness ≠ .absent ∧ e.content.current ≠ c ∧ e.content.lastDone ≠ c))
          ∧ (∀ c : CueId, n.refusedByPeer c = true ↔ ∃ e ∈ n.peers.entries, e.station ≠ n.station
              ∧ e.freshness = .fresh ∧ e.content.refusal.id = c)
          ∧ (n.towBreach = true ↔
              (∃ x ∈ n.towedSet, ∃ y ∈ n.towedSet, n.peers.map.adjacent x y = true)
                ∨ Live.towMax n.cfg.live < n.towedSet.length)

/-- One tick of the MOVING profile of an axis that is planned (R93 to R99), for a target at or ahead of the setpoint: the
target and the direction stand; the setpoint moves only toward the target and never past it; the velocity memory is the step
taken, at most the normal acceleration above what it was and above neither what it was, the cap nor the acceleration; the
setpoint moves no further past any neighbour's projection than the window; nothing but this planner and the pinch mark
changes. The count that reaches pinch_ticks is left to PINCH_LIMIT (log entry 1). That the mark of PINCH_LIMIT also comes where
an upset has put pinch_ticks to 0, or to no more than the count, is the model's choice (DESIGN CHOICE, log entry 28). -/
def Obligations.MovingTickIsBounded : Prop :=
  ∀ (a : Axis) (n : Node), n.cue.phase = .moving → n.headMoves a = true → n.release a = some .released →
    n.faults.has .estop = false → (a = .ring → n.ringMode = .driven) → 0 ≤ (n.planner a).remaining →
    let p := n.planner a
    let q := (n.planAxis a).planner a
    let step := accelStep (Live.accel n.cfg.live a)
    q.target = p.target ∧ q.up = p.up
      ∧ 0 ≤ q.remaining ∧ q.remaining ≤ p.remaining
      ∧ (q.velocity : Int) = p.remaining - q.remaining
      ∧ q.velocity ≤ p.velocity + step ∧ q.velocity ≤ max p.velocity (max (n.cap a) step)
      ∧ (∀ x ∈ n.projections a,
          (p.up = true → q.setpoint ≤ max p.setpoint ((x + Live.window n.cfg.live a) * 65536))
            ∧ (p.up = false → min p.setpoint ((x - Live.window n.cfg.live a) * 65536) ≤ q.setpoint))
      ∧ (q.velocity = 0 ∧ q.setpoint ≠ q.target →
          if Live.pinchTicks n.cfg.live ≤ p.pinch + 1 then
            q.pinch = p.pinch ∧ n.planAxis a = { n.setPlanner a q with due := n.due ++ [.pinch a] }
          else q.pinch = p.pinch + 1 ∧ n.planAxis a = n.setPlanner a q)
      ∧ (¬(q.velocity = 0 ∧ q.setpoint ≠ q.target) → q.pinch = 0 ∧ n.planAxis a = n.setPlanner a q)

/-- The supply scale of a tick, from the demand sum over the entries that are FRESH or STALE (R59, R92), and the step of the
MOVING profile (R89, R93 to R98): the cap from the cue's speed, the supply scale and the derate; the profile velocity; the
candidate, which is the target once it is within reach; the window clamp over the projections of the ring neighbours; and the
commit, the velocity memory the step taken. (An upset alone makes the acceleration step 0, where the spec gives no braking
distance, log entry 5.) -/
def Obligations.MovingTickFollowsProfile : Prop :=
  (∀ n : Node, n.inService = true →
    let heard := n.peers.entries.filter (fun e => e.freshness = .fresh ∨ e.freshness = .stale)
    let demand := (heard.map (fun e => e.content.demand.toNat)).sum
    let budget := Live.supplyBudget n.cfg.live
    n.rescale = { n with supplyScale := n.rescale.supplyScale }
      ∧ (demand ≤ budget → n.rescale.supplyScale = 256)
      ∧ (budget < demand → n.rescale.supplyScale = if 256 * budget / demand < 32 then 32 else 256 * budget / demand)
      ∧ 32 ≤ n.rescale.supplyScale ∧ n.rescale.supplyScale ≤ 256)
  ∧ ∀ (a : Axis) (m : AxisMove) (n : Node), n.cue.phase = .moving → n.headMove a = some m → n.release a = some .released →
    n.faults.has .estop = false → (a = .ring → n.ringMode = .driven) →
    let p := n.planner a
    let q := (n.planAxis a).planner a
    let d : Int := if p.up then 1 else -1
    let r := d * (p.target - p.setpoint)
    let step := Live.accel n.cfg.live a * 1048576 / 1000000
    let reach := if step = 0 then Config.brakingDistanceAtRest p.velocity else p.velocity * p.velocity / (2 * step)
    let towed := ∃ e ∈ n.peers.entries, e.freshness ≠ .absent ∧ e.content.ringMode = .towed
    ∀ derate : Nat,
      (a = .ring → towed → derate = Live.towDerate n.cfg.live) → (¬(a = .ring ∧ towed) → derate = 256) →
      let cap := m.speed * 262144 / 1000 * n.supplyScale / 256 * derate / 256
      let v := if cap < p.velocity then max (p.velocity - step) cap
        else if r - p.velocity ≤ (reach : Int) then max (p.velocity - step) step
        else min (p.velocity + step) cap
      let c := if r ≤ v then p.target else p.setpoint + d * v
      p.ClampsTo (n.projections a) (Live.window n.cfg.live a) c q.setpoint
        ∧ q.velocity = (d * (q.setpoint - p.setpoint)).toNat

/-- The regimes other than the MOVING profile (R90). In HOLDING and STOPPING a planned axis takes the controlled ramp: its
velocity memory less the normal acceleration step, at least 0, gives the candidate, which is the target once it is within reach;
the window clamps it; and the velocity memory becomes the step taken (R96 to R98, R101, R102). In HALTED ramping a moving axis
takes the emergency ramp, which the window does not clamp (R103). After ESTOP, and on the ring while towed, the setpoint
follows the measured position within the soft limits (R105, R106). Any other axis is held (R100). -/
def Obligations.OtherRegimesOfTick : Prop :=
  ∀ (a : Axis) (n : Node), n.inService = true →
    let p := n.planner a
    let q := (n.planAxis a).planner a
    let follows := n.faults.has .estop = true ∨ (a = .ring ∧ n.ringMode = .towed)
    let planned := n.headMoves a = true ∧ n.release a = some .released
    let ramped := n.cue.phase = .halted ∧ n.cue.ramping = true ∧ 0 < p.velocity
    let soft := Live.softLimits n.cfg.live a
    (¬(n.cue.phase = .moving ∧ planned ∧ ¬follows) →
        n.planAxis a = n.setPlanner a q ∧ q.target = p.target ∧ q.up = p.up ∧ q.pinch = 0)
      ∧ (follows → q.setpoint = limitTo soft (n.measured a) * 65536 ∧ q.velocity = 0)
      ∧ (¬follows → (n.cue.phase = .holding ∨ n.cue.phase = .stopping) → planned →
          let d : Int := if p.up then 1 else -1
          let v := p.velocity - accelStep (Live.accel n.cfg.live a)
          let c := if d * (p.target - p.setpoint) ≤ v then p.target else p.setpoint + d * v
          p.ClampsTo (n.projections a) (Live.window n.cfg.live a) c q.setpoint
            ∧ q.velocity = (d * (q.setpoint - p.setpoint)).toNat)
      ∧ (¬follows → (n.cue.phase = .holding ∨ n.cue.phase = .stopping) → planned → 0 ≤ p.remaining →
          q.velocity ≤ p.velocity - accelStep (Live.accel n.cfg.live a)
            ∧ (q.velocity : Int) = p.remaining - q.remaining ∧ 0 ≤ q.remaining
            ∧ ∀ x ∈ n.projections a,
                (p.up = true → q.setpoint ≤ max p.setpoint ((x + Live.window n.cfg.live a) * 65536))
                  ∧ (p.up = false → min p.setpoint ((x - Live.window n.cfg.live a) * 65536) ≤ q.setpoint))
      ∧ (¬follows → ramped → 0 ≤ p.remaining →
          let v := p.velocity - accelStep (Live.emerg n.cfg.live a)
          q.velocity = (if p.remaining ≤ v then p.remaining.toNat else v)
            ∧ q.setpoint = (if p.remaining ≤ v then p.target else p.setpoint + (if p.up then 1 else -1) * v))
      ∧ (¬follows → ¬ramped →
          ¬((n.cue.phase = .moving ∨ n.cue.phase = .holding ∨ n.cue.phase = .stopping) ∧ planned) →
          q.setpoint = p.setpoint ∧ q.velocity = 0)

/-- What a tick does to the timers and counts that it advances (R45, R49, R73, R78, R111, R148, R176). The advance that ends
a count is left to the count's own step, which the tick marks (log entry 1); a count that an upset's value has started at 0 ends
with it (log entry 28). The ages are given for thresholds in their order (log entry 31 has the others). A CHANGING brake's timer goes down by one and is marked at its end; at 0 a CHANGING brake, and at every
tick an AGREED one, raises BRAKE while its feedback disagrees with its output. -/
def Obligations.TickAdvancesCounts : Prop :=
  (∀ (n : Node) (t : Nat), n.peers.timer = some t →
      (1 < t → n.lowerStatusTimer = { n with peers := { n.peers with timer := some (t - 1) } })
        ∧ (t ≤ 1 → n.lowerStatusTimer = { n with due := n.due ++ [.statusPeriod] }))
    ∧ (∀ (n : Node) (t : Nat), n.cue.permit = some t →
        (1 < t → n.lowerPermitTimer = { n with cue := { n.cue with permit := some (t - 1) } })
          ∧ (t ≤ 1 → n.lowerPermitTimer = { n with due := n.due ++ [.permit] }))
    ∧ (∀ n : Node, n.cue.phase = .armed → n.cue.armRunning = true →
        (1 < n.cue.arm → n.lowerArmTimer = { n with cue := { n.cue with arm := n.cue.arm - 1 } })
          ∧ (n.cue.arm ≤ 1 → n.lowerArmTimer = { n with due := n.due ++ [.arm] }))
    ∧ (∀ (n : Node) (t : Nat), n.cfg.recheck = some t →
        (1 < t → n.lowerRecheckTimer = { n with cfg := { n.cfg with recheck := some (t - 1) } })
          ∧ (t ≤ 1 → n.lowerRecheckTimer = { n with due := n.due ++ [.recheck] }))
    ∧ (∀ n : Node, n.cue.phase = .settling →
        let inBand := ∀ a m, n.headMove a = some m → (n.measured a - m.target).natAbs ≤ Live.inpos n.cfg.live a
        (¬inBand → n.countSettle = { n with cue := { n.cue with settleCount := 0 } })
          ∧ (inBand → n.cue.settleCount + 1 < Live.settleTicks n.cfg.live →
              n.countSettle = { n with cue := { n.cue with settleCount := n.cue.settleCount + 1 } })
          ∧ (inBand → Live.settleTicks n.cfg.live ≤ n.cue.settleCount + 1 →
              n.countSettle = { n with due := n.due ++ [.settle] }))
    ∧ (∀ (a : Axis) (n : Node),
        let d := n.axisDrive a
        let feedback := n.level (match a with | .ring => 3 | .tilt => 4)
        let watched := d.supervision = .agreed ∨ d.supervision = .changing ∧ d.brakeTimer = 0
        (d.supervision = .unsupervised → n.superviseBrake a = n)
          ∧ (d.supervision = .changing → 1 < d.brakeTimer →
              n.superviseBrake a = n.setAxisDrive a { d with brakeTimer := d.brakeTimer - 1 })
          ∧ (d.supervision = .changing → d.brakeTimer = 1 → n.superviseBrake a = { n with due := n.due ++ [.brake a] })
          ∧ (watched → feedback = d.released ∨ n.inService = false ∨ n.faults.has .brake = true → n.superviseBrake a = n)
          ∧ (watched → feedback ≠ d.released → n.inService = true → n.faults.has .brake = false →
              n.FaultTaken .brake (Node.finish false (n.superviseBrake a))))
    ∧ ∀ n : Node, n.inService = true → ∀ e ∈ n.peers.entries, e.freshness ≠ .absent → e.station ≠ n.station →
        let age := e.age.bump.toNat
        let stale := Live.staleThreshold n.cfg.live
        let lost := Live.lostThreshold n.cfg.live
        stale < lost →
        (e.freshness = .fresh → age ≤ stale → { e with age := e.age.bump } ∈ n.agePeers.peers.entries)
          ∧ (e.freshness = .fresh → stale < age → age ≤ lost →
              e ∈ n.agePeers.peers.entries ∧ .peerStale e.station ∈ n.agePeers.due)
          ∧ (e.freshness = .stale → stale < age → age ≤ lost → { e with age := e.age.bump } ∈ n.agePeers.peers.entries)
          ∧ (e.freshness = .fresh ∨ e.freshness = .stale → lost < age →
              e ∈ n.agePeers.peers.entries ∧ .peerLost e.station ∈ n.agePeers.due)
          ∧ (e.freshness = .lost → lost < age → { e with age := e.age.bump } ∈ n.agePeers.peers.entries)

/-- The tow decision of a tick (R131 to R133): a ring drive failure of a DRIVEN wagon without DRIVE latched takes it TOWED,
its ring velocity memory 0 and nothing latched, when all the conditions hold; otherwise DRIVE is latched and it halts. -/
def Obligations.TowDecision : Prop :=
  ∀ n : Node, n.inService = true →
    let enabled := n.drive.ring.released = true ∧ n.level 0 = true ∧ n.ringMode = .driven
    let failure := (n.level 7 = false ∧ enabled)
      ∨ ∃ c : Fin 8, (n.liveRecord c).tripped = true ∧ Live.channelAction n.cfg.live c = actionTow
    let towed (st : Nat) := ∃ e ∈ n.peers.entries, e.station = st ∧ e.freshness ≠ .absent ∧ e.content.ringMode = .towed
    let others := (n.peers.entries.filter (fun e =>
      e.freshness ≠ .absent ∧ e.content.ringMode = .towed ∧ e.station ≠ n.station)).length
    let allowed := Live.towPermitted n.cfg.live = true
      ∧ (n.peers.map.closed = true ∨ (n.peers.map.neighbours n.station).length = 2)
      ∧ others < Live.towMax n.cfg.live
      ∧ ∀ st ∈ n.peers.map.neighbours n.station, ¬towed st
    (¬failure ∨ n.ringMode = .towed ∨ n.faults.has .drive = true → n.decideTow = n)
      ∧ (failure → n.ringMode = .driven → n.faults.has .drive = false → allowed →
          n.decideTow = { n with ringMode := .towed, ring := { n.ring with velocity := 0 }, statusEvent := true })
      ∧ (failure → n.ringMode = .driven → n.faults.has .drive = false → ¬allowed →
          n.FaultTaken .drive (Node.finish false n.decideTow) ∧ n.decideTow.ringMode = .driven)

/-- What a tick raises (R107, R143, R146, R152): each check latches its fault exactly where the rule's condition holds, in the
phases that take faults. -/
def Obligations.TickChecksRaiseFaults : Prop :=
  ∀ n : Node, n.inService = true →
    let enabled (a : Axis) := (n.axisDrive a).released = true ∧ n.level 0 = true ∧ (a = .ring → n.ringMode = .driven)
    let apart (a : Axis) := ∃ x ∈ n.projections a,
      Live.window n.cfg.live a + Live.skewExcess n.cfg.live a < (n.measured a - x).natAbs
    let checked (a : Axis) :=
      ((n.cue.phase = .moving ∨ n.cue.phase = .holding ∨ n.cue.phase = .stopping ∨ n.cue.phase = .settling)
          ∧ ∃ m, n.headMove a = some m)
        ∨ (n.cue.phase = .halted ∧ n.cue.ramping = true ∧ 0 < (n.planner a).velocity)
    let travels := n.drive.tilt.released = true ∨ 0 < n.tilt.velocity
    let raises (k : FaultKind) (condition : Prop) (after : Node) :=
      (¬condition ∨ n.faults.has k = true → after = n)
        ∧ (condition → n.faults.has k = false → n.FaultTaken k (Node.finish false after))
    raises .skew (∃ a, checked a ∧ apart a) n.skewCheck
      ∧ raises .drive (enabled .tilt ∧ (n.drive.reply.tiltReady = false
            ∨ (1 ≤ n.drive.reply.faultCode.toNat ∧ n.drive.reply.faultCode.toNat ≤ 127)
            ∨ n.drive.failedExchanges = 2)) n.judgeTiltDrive
      ∧ raises .follow (∃ a, enabled a ∧ (n.axisDrive a).supervision = .agreed
            ∧ Live.follow n.cfg.live a < (wholeUnits (n.planner a).setpoint - n.measured a).natAbs) n.checkFollow
      ∧ raises .limit (travels ∧ (n.tilt.up = true ∧ n.level 1 = true ∨ n.tilt.up = false ∧ n.level 2 = true))
          n.checkLimits

/-- A fault raised (R117 to R121, R124, R125): not latched in STARTING and CONFIG_FAULT, nothing when already latched, and
otherwise taken, with the rest of its step. -/
def Obligations.RaisedFaultHalts : Prop :=
  ∀ (k : FaultKind) (n : Node),
    (n.cue.phase = .starting ∨ n.cue.phase = .configFault ∨ n.faults.has k = true → Node.raise k n = n)
      ∧ (n.cue.phase ≠ .starting → n.cue.phase ≠ .configFault → n.faults.has k = false →
          n.FaultTaken k (Node.finish false (Node.raise k n)))

/-! ## Drive and sensors -/

/-- DRIVE_EXCHANGE_COMPLETE (R141): a good reply, one whose check is correct and whose echo equals the setpoints sent, is held
as the last reply and the failed count is 0; without a reply, or with any other, the last reply is kept and the count goes up
by one, to at most 2. Nothing else changes. -/
def Obligations.DriveExchangeJudged : Prop :=
  ∀ (reply : Option DriveReply) (s : State), s.node.Steady → s.node.drive.exchanging = true →
    let d := s.node.drive
    let good (r : DriveReply) := r.checkCorrect = true ∧ r.echoRing = d.request.ringSetpoint
      ∧ r.echoTilt = d.request.tiltSetpoint
    (∀ r, reply = some r → good r →
        exec (.driveExchangeComplete reply) s = .next { s with node := { s.node with drive := { d with
          exchanging := false, failedExchanges := 0
          reply := { ringReady := r.ringReady, tiltReady := r.tiltReady, faultCode := r.faultCode } } } })
      ∧ ((∀ r, reply = some r → ¬good r) →
          exec (.driveExchangeComplete reply) s = .next { s with node := { s.node with drive := { d with
            exchanging := false, failedExchanges := min 2 (d.failedExchanges + 1) } } })

/-- SENSOR_READ_COMPLETE (R144, R145): a good value is held and the sensor's failure count is 0; a failed read keeps the value,
is counted, and with the count then at 2 raises SENSOR, which is latched only in the phases that take faults. For a CLEAR the
condition of SENSOR is absent when both counts are 0. -/
def Obligations.SensorReadJudged : Prop :=
  ∀ (a : Axis) (s : State), s.node.Steady → (s.node.axisDrive a).reading = true →
    let d := s.node.axisDrive a
    let n := s.node
    let failed : Node :=
      { n.setAxisDrive a { d with reading := false, readFails := min 2 (d.readFails + 1) } with
        counters := { n.counters with sensorFailures := n.counters.sensorFailures.bump } }
    (∀ v : Int, exec (.sensorReadComplete a (some v)) s =
        .next { s with node := n.setAxisDrive a { d with reading := false, raw := v, readFails := 0 } })
      ∧ (d.readFails = 0 → exec (.sensorReadComplete a none) s = .next { s with node := failed })
      ∧ (n.inService = false ∨ n.faults.has .sensor = true →
          exec (.sensorReadComplete a none) s = .next { s with node := failed })
      ∧ (1 ≤ d.readFails → n.inService = true → n.faults.has .sensor = false →
          ∃ b, exec (.sensorReadComplete a none) s = .next { s with node := b } ∧ failed.FaultTaken .sensor b)
      ∧ (n.faultAbsent .sensor = true ↔ n.drive.ring.readFails = 0 ∧ n.drive.tilt.readFails = 0)

/-! ## The own STATUS -/

/-- A build of the own STATUS (R12, R51, R52): the own sequence advances; the own entry is written from the blocks' present
state, FRESH, age 0; the frame carries the same content and goes to the STATUS slot, PENDING from an EMPTY one and otherwise in
place of the content there, which is counted; the allowance is used up, the pending mark goes, and the period timer restarts.
The demand is the sum of R54, and the own velocities are those of R89. A build that changes the own ring mode in a phase of motion
under a head that moves the ring judges the towed set it leaves, and raises TOW where that breaks the limits (R139).
STATUS_PERIOD_EXPIRY makes one (R49), once for the tick that brings it (log entry 1). -/
def Obligations.BuildWritesOwnStatus : Prop :=
  ∀ n : Node,
    let seq := n.peers.ownSeq + 1
    let live := n.cfg.live
    let motion := n.cue.phase = .moving ∨ n.cue.phase = .holding ∨ n.cue.phase = .stopping ∨ n.cue.phase = .settling
    let moves (a : Axis) := ∃ m, n.headMove a = some m
    let carried := (n.peers.map.neighbours n.station).filter (fun st => n.peers.entries.any (fun e =>
      decide (e.station = st ∧ e.freshness ≠ .absent ∧ e.content.ringMode = .towed)))
    ∀ ringTerm tiltTerm : Nat,
    ((n.cue.phase = .armed ∨ motion) ∧ moves .ring ∧ n.ringMode = .driven →
        ringTerm = Live.ringDemand live + Live.towShare live * carried.length) →
    (¬((n.cue.phase = .armed ∨ motion) ∧ moves .ring ∧ n.ringMode = .driven) → ringTerm = 0) →
    ((n.cue.phase = .armed ∨ motion) ∧ moves .tilt → tiltTerm = Live.tiltDemand live) →
    (¬((n.cue.phase = .armed ∨ motion) ∧ moves .tilt) → tiltTerm = 0) →
    let content : Content :=
      { phase := n.cue.phase, ringMode := n.ringMode, attention := n.inputs.attention
        haltedRamping := decide (n.cue.phase = .halted) && n.cue.ramping
        holds := n.cue.holds, faults := n.faults
        current := (match n.cue.queue with | [] => 0 | c :: _ => c.id)
        lastDone := n.cue.lastDone, ringPos := n.drive.ring.raw + n.homeOffset
        ringVel := reportedVelocity n.ring.up n.ring.velocity, tilt := n.drive.tilt.raw
        tiltVel := reportedVelocity n.tilt.up n.tilt.velocity
        demand := BitVec.ofNat 8 (min 255 (ringTerm + tiltTerm)), digest := n.cfg.startDigest
        refusal := n.cue.refusal }
    let frame := header 1 24 n.groupTag n.groupTag n.station seq ++ statusPayload content
    let peers : PeerTable := { n.peers with
      entries := n.peers.entries.map (fun e =>
        if e.station = n.station then
          { station := n.station, freshness := .fresh, age := 0, lastSeq := seq, content }
        else e)
      ownSeq := seq, allowance := false, pendingBuild := false, timer := some n.statusPeriod }
    let built : Node := { n with
      peers, due := n.due.filter (fun d => d ≠ .statusPeriod), tx := { n.tx with status := n.build.tx.status }
      counters := { n.counters with statusOverruns := n.build.counters.statusOverruns } }
    n.build.peers = peers
      ∧ (n.tx.status.state = .empty →
          n.build.tx.status = { state := .pending, content := frame, collisions := 0, replaced := false }
            ∧ n.build.counters.statusOverruns = n.counters.statusOverruns)
      ∧ (n.tx.status.state ≠ .empty →
          n.build.tx.status.content = frame ∧ n.build.tx.status.state = n.tx.status.state
            ∧ n.build.tx.status.collisions = n.tx.status.collisions
            ∧ (n.tx.status.state = .sending → n.build.tx.status.replaced = true)
            ∧ n.build.counters.statusOverruns = n.counters.statusOverruns.bump)
      ∧ n.build.rx = n.rx ∧ n.build.drive = n.drive ∧ n.build.inputs = n.inputs ∧ n.build.monitor = n.monitor
      ∧ n.build.cfg = n.cfg ∧ n.build.ringMode = n.ringMode ∧ n.build.supplyScale = n.supplyScale
      ∧ (n.EntryLaw → ∀ e ∈ n.peers.entries, e.station = n.station → e.freshness = .fresh →
          let judged := e.content.ringMode ≠ n.ringMode ∧ motion ∧ moves .ring ∧ built.towBreach = true
          (¬judged ∨ n.faults.has .tow = true → n.build = built)
            ∧ (judged → n.faults.has .tow = false → built.FaultTaken .tow (Node.finish false n.build)))
      ∧ ∀ s : State, s.node.Steady →
        n = { s.node with due := s.node.due.filter (fun d => d ≠ .statusPeriod) } →
        .statusPeriod ∈ s.node.due → n.build.Calm → n.build.statusEvent = false →
        exec .statusPeriodExpiry s = .next { s with node := n.build }

/-- The STATUS payload of section 2.2, byte for byte (R27): each field of a content in its range stands at its place in its
encoding, and a received payload is read by the same table, the reserved bits of the flags, the hold causes and the faults
ignored; so a payload built from a content is read back as that content. (Outside the ranges the spec states no field, log
entry 4.) -/
def Obligations.StatusPayloadFields : Prop :=
  let phases : List Phase :=
    [.starting, .configFault, .idle, .armed, .moving, .holding, .stopping, .settling, .done, .halted]
  let reasons : List CueReason := [.none, .state, .full, .range, .shape, .stowed, .config, .peerRefused, .timeout]
  let causes : List HoldCause := [.permit, .peer, .personnel, .stowed, .monitor]
  let kinds : List FaultKind := [.estop, .limit, .drive, .follow, .sensor, .brake, .monitor, .pinch, .skew, .peerLost, .tow,
    .config, .address]
  (∀ c : Content, -8388608 ≤ c.ringPos → c.ringPos ≤ 8388607 → -32768 ≤ c.ringVel → c.ringVel ≤ 32767 →
      0 ≤ c.tilt → c.tilt ≤ 65535 → -32768 ≤ c.tiltVel → c.tiltVel ≤ 32767 →
      let p := statusPayload c
      p.length = 24 ∧ phases[field p 0 1]? = some c.phase
        ∧ field p 1 1 = (if c.ringMode = .towed then 1 else 0) + (if c.attention then 2 else 0)
            + (if c.haltedRamping then 4 else 0)
        ∧ field p 2 1 < 32 ∧ (∀ i h, causes[i]? = some h → (field p 2 1).testBit i = c.holds.has h)
        ∧ field p 3 2 < 8192 ∧ (∀ i k, kinds[i]? = some k → (field p 3 2).testBit i = c.faults.has k)
        ∧ field p 5 2 = c.current.toNat ∧ field p 7 2 = c.lastDone.toNat
        ∧ signedOf 24 (field p 9 3) = c.ringPos ∧ signedOf 16 (field p 12 2) = c.ringVel
        ∧ (field p 14 2 : Int) = c.tilt ∧ signedOf 16 (field p 16 2) = c.tiltVel
        ∧ field p 18 1 = c.demand.toNat ∧ field p 19 2 = c.digest.toNat ∧ field p 21 2 = c.refusal.id.toNat
        ∧ reasons[field p 23 1]? = some c.refusal.reason ∧ decodeStatus p = c)
    ∧ ∀ (p : List Byte) (phase : Phase) (reason : CueReason),
        p.length = 24 → phases[field p 0 1]? = some phase → reasons[field p 23 1]? = some reason →
        decodeStatus p =
          { phase, ringMode := if field p 1 1 % 2 = 1 then .towed else .driven
            attention := (field p 1 1).testBit 1, haltedRamping := (field p 1 1).testBit 2
            holds := BitVec.ofNat 5 (field p 2 1 % 32), faults := BitVec.ofNat 13 (field p 3 2 % 8192)
            current := BitVec.ofNat 16 (field p 5 2), lastDone := BitVec.ofNat 16 (field p 7 2)
            ringPos := signedOf 24 (field p 9 3), ringVel := signedOf 16 (field p 12 2), tilt := field p 14 2
            tiltVel := signedOf 16 (field p 16 2), demand := BitVec.ofNat 8 (field p 18 1)
            digest := BitVec.ofNat 16 (field p 19 2)
            refusal := { id := BitVec.ofNat 16 (field p 21 2), reason } }

/-! ## Steps that a tick brings on (log entry 1) -/

/-- PEER_ENTRY_STALE (R45, R46, R112, R114): the entry is STALE, its age one more; hold cause PEER is present, a wagon in
MOVING passes to HOLDING, and the change of the hold cause set is a status event. PEER_ENTRY_LOST (R45, R47): the entry is LOST, its
age one more; in MOVING, HOLDING, STOPPING and SETTLING, PEER_LOST halts the wagon; in the other phases nothing is latched.
Each step comes for the mark that a control tick has set (log entry 1). -/
def Obligations.PeerEntryGoesStaleOrLost : Prop :=
  (∀ (st : Nat) (e : Entry) (s : State), s.node.Steady → s.node.inService = true → .peerStale st ∈ s.node.due →
      s.node.entry st = some e → e.freshness = .fresh →
      let n : Node := { s.node with
        due := s.node.due.filter (fun d => d ≠ .peerStale st)
        peers := { s.node.peers with entries := s.node.peers.entries.map (fun x =>
          if x.station = st then { e with age := e.age.bump, freshness := .stale } else x) } }
      (s.node.cue.holds.has .peer = true → n.Calm → exec (.peerEntryStale st) s = .next { s with node := n })
        ∧ (s.node.cue.holds.has .peer = false → (n.withCause .peer).Settles →
            exec (.peerEntryStale st) s = .next { s with node := (n.withCause .peer).announced }))
    ∧ (∀ (st : Nat) (e : Entry) (s : State), s.node.Steady → .peerLost st ∈ s.node.due →
      s.node.entry st = some e → e.freshness = .stale →
      let n : Node := { s.node with
        due := s.node.due.filter (fun d => d ≠ .peerLost st)
        peers := { s.node.peers with entries := s.node.peers.entries.map (fun x =>
          if x.station = st then { e with age := e.age.bump, freshness := .lost } else x) } }
      let moving := s.node.cue.phase = .moving ∨ s.node.cue.phase = .holding ∨ s.node.cue.phase = .stopping
        ∨ s.node.cue.phase = .settling
      (moving → s.node.faults.has .peerLost = false →
          ∃ b, exec (.peerEntryLost st) s = .next { s with node := b } ∧ n.FaultTaken .peerLost b)
        ∧ (¬moving → n.Calm → exec (.peerEntryLost st) s = .next { s with node := n }))

/-- BRAKE_TIMER_EXPIRY of a CHANGING brake (R148) leaves its timer at 0 and raises BRAKE; PINCH_LIMIT (R99) leaves the pinch
counter at pinch_ticks and raises PINCH. Where the fault is latched already, nothing else comes of either.
That PINCH_LIMIT leaves the counter at pinch_ticks in every state, also where an upset has altered pinch_ticks to no more than
the count, is the model's choice (DESIGN CHOICE, log entry 28).
The step comes for the mark that a control tick or a conversion has set (log entry 1). -/
def Obligations.BrakeTimerAndPinchLimitHalt : Prop :=
  ∀ (a : Axis) (s : State), s.node.Steady →
    let timed : Node := { s.node.setAxisDrive a { s.node.axisDrive a with brakeTimer := 0 } with
      due := s.node.due.filter (fun d => d ≠ .brake a) }
    let pinched : Node :=
      { s.node.setPlanner a { s.node.planner a with pinch := Live.pinchTicks s.node.cfg.live } with
        due := s.node.due.filter (fun d => d ≠ .pinch a) }
    (.brake a ∈ s.node.due → (s.node.axisDrive a).supervision = .changing →
      (s.node.inService = true → s.node.faults.has .brake = false →
          ∃ b, exec (.brakeTimerExpiry a) s = .next { s with node := b } ∧ timed.FaultTaken .brake b)
        ∧ (s.node.faults.has .brake = true → exec (.brakeTimerExpiry a) s = .next { s with node := timed }))
      ∧ (.pinch a ∈ s.node.due →
        (s.node.inService = true → s.node.faults.has .pinch = false →
            ∃ b, exec (.pinchLimit a) s = .next { s with node := b } ∧ pinched.FaultTaken .pinch b)
          ∧ (s.node.faults.has .pinch = true → exec (.pinchLimit a) s = .next { s with node := pinched }))

/-- SETTLE_COUNT_REACHED in SETTLING, while some peer is still to come to the head's end (R56, R76, R78, R79, R147): the phase
is DONE, both brakes are applied, the release states are cleared, and the change is a status event. The settle counter then holds
settle_ticks; that it does so where an upset has brought settle_ticks below the count is the model's choice (DESIGN CHOICE, log
entry 28). The step comes for the mark that a control tick or a conversion has set (log entry 1). -/
def Obligations.SettleCountReachedIsDone : Prop :=
  ∀ (s : State) (e : Entry), s.node.Steady → .settle ∈ s.node.due → s.node.cue.phase = .settling →
    e ∈ s.node.peers.entries → e.station ≠ s.node.station → e.freshness ≠ .lost →
    e.content.current = s.node.currentCue → e.content.phase ≠ .done → e.content.lastDone ≠ s.node.currentCue →
    ∃ b, exec .settleCountReached s = .next { s with node := b }
      ∧ b.cue.phase = .done ∧ b.cue.settleCount = Live.settleTicks s.node.cfg.live
      ∧ (∀ a, (b.axisDrive a).released = false) ∧ b.cue.ringRelease = none ∧ b.cue.tiltRelease = none
      ∧ b.cue.queue = s.node.cue.queue ∧ b.cue.retired = s.node.cue.retired ∧ b.faults = s.node.faults
      ∧ b.ring = s.node.ring ∧ b.tilt = s.node.tilt ∧ b.rx = s.node.rx ∧ b.cue.permit = s.node.cue.permit
      ∧ s.node.StatusFollows b

/-! ## Monitor -/

/-- MONITOR_CONVERSION of the channel whose turn it is (R160 to R163): the value is the offset plus the scaled reading, limited
to 16 bits; it is out of range outside the channel's limits or, for channel 0 with a tolerance, too far from the measured tilt held
at the tick of completion, which TickRunsEveryBlock says is kept; the runs count it; and the turn passes to the next enabled channel, upward and round. A run that has just reached 3 brings on
the trip or the untrip as a step of its own (log entry 1). -/
def Obligations.MonitorConversionJudged : Prop :=
  ∀ (c : Fin 8) (reading : BitVec 10) (tilt : Int) (s : State), s.node.Steady → s.node.inService = true →
    s.node.monitor.turn = some c → s.node.monitor.converting = some tilt →
    let live := s.node.cfg.live
    let r := s.node.liveRecord c
    let value := max (-32768) (min 32767 (Live.channelOffset live c
      + ((reading.toNat * Live.channelGain live c / 1024 : Nat) : Int)))
    let out := value < Live.channelLo live c ∨ Live.channelHi live c < value
      ∨ (c = 0 ∧ 0 < Live.inclineTolerance live
          ∧ Live.inclineTolerance live < (value - tilt).natAbs)
    ∀ (r' : LiveRecord) (next : Option (Fin 8)),
      (out → r' = { r with last := value, outRun := min 255 (r.outRun + 1), inRun := 0 }) →
      (¬out → r' = { r with last := value, outRun := 0, inRun := min 255 (r.inRun + 1) }) →
      next = ((channels.filter (fun d => c < d)) ++ (channels.filter (fun d => d ≤ c))).find?
        (Live.channelEnabled live) →
      exec (.monitorConversion reading) s = .next { s with node := { s.node with
        monitor := { live := s.node.monitor.live.set c r', turn := next, converting := none }
        due := s.node.due
          ++ (if r.tripped = false ∧ r'.outRun = 3 then [.trip c] else [])
          ++ (if r.tripped = true ∧ r'.inRun = 3 then [.untrip c] else []) } }

/-- MONITOR_TRIP and MONITOR_UNTRIP by the channel's action (R163 to R167): REPORT works the attention flag out anew, HOLD puts
hold cause MONITOR in step, HALT raises MONITOR at a trip, and TOW is left to Tow Logic's tick. Where the cause is present or the
fault latched already, the trip changes the channel's record alone.
The step comes for the mark that a control tick or a conversion has set (log entry 1). -/
def Obligations.MonitorTripActs : Prop :=
  ∀ (c : Fin 8) (s : State), s.node.Steady → s.node.inService = true →
    let live := s.node.cfg.live
    let with' (tripped : Bool) (mark : Due) : Node := { s.node with
      monitor := { s.node.monitor with live := s.node.monitor.live.set c { s.node.liveRecord c with tripped } }
      due := s.node.due.filter (fun d => d ≠ mark) }
    let on := with' true (.trip c)
    let off := with' false (.untrip c)
    (.trip c ∈ s.node.due →
      (Live.channelAction live c = actionReport →
          exec (.monitorTrip c) s = .next { s with node := { on with inputs := { on.inputs with attention := true } } })
        ∧ (Live.channelAction live c = actionHold → s.node.cue.holds.has .monitor = false →
            (on.withCause .monitor).Settles →
            exec (.monitorTrip c) s = .next { s with node := (on.withCause .monitor).announced })
        ∧ (Live.channelAction live c = actionHold ∧ s.node.cue.holds.has .monitor = true
              ∨ Live.channelAction live c = actionHalt ∧ s.node.faults.has .monitor = true →
            exec (.monitorTrip c) s = .next { s with node := on })
        ∧ (Live.channelAction live c = actionHalt → s.node.faults.has .monitor = false →
            ∃ b, exec (.monitorTrip c) s = .next { s with node := b } ∧ on.FaultTaken .monitor b)
        ∧ (Live.channelAction live c = actionTow → exec (.monitorTrip c) s = .next { s with node := on }))
      ∧ (.untrip c ∈ s.node.due →
        (Live.channelAction live c = actionReport →
            exec (.monitorUntrip c) s = .next { s with node := { off with inputs := { off.inputs with
              attention := decide (s.node.inputs.changed &&& Live.attentionMask live ≠ 0)
                || channels.any (fun d => decide (d ≠ c ∧ (s.node.liveRecord d).tripped = true
                    ∧ Live.channelAction live d = actionReport)) } } })
          ∧ (Live.channelAction live c = actionHalt ∨ Live.channelAction live c = actionTow →
              exec (.monitorUntrip c) s = .next { s with node := off })
          ∧ (Live.channelAction live c = actionHold → off.Calm →
              exec (.monitorUntrip c) s = .next { s with node := off })
          ∧ (Live.channelAction live c = actionHold → s.node.cue.holds.has .monitor = true →
              (∀ d, d ≠ c → (s.node.liveRecord d).tripped = true → Live.channelAction live d ≠ actionHold) →
              (off.withoutCause .monitor).Settles →
              exec (.monitorUntrip c) s = .next { s with node := (off.withoutCause .monitor).announced }))

/-! ## Discrete inputs -/

/-- INPUT_LEVEL_CHANGE (R112, R114, R115, R150, R153, R155): the level changes, the input's changed latch is set, and the
attention flag is worked out anew; a level held already is no change. DRIVE_READY is left to Tow Logic's tick. DECK_CLEAR lost
adds hold cause PERSONNEL and regained removes it; SEATS_STOWED lost under a head that moves the tilt adds STOWED and regained
removes it (R113). -/
def Obligations.InputLevelChangeLatched : Prop :=
  ∀ (i : Fin 8) (level : Bool) (s : State), s.node.Steady →
    let bit : Byte := 1 <<< i.val
    let changed := s.node.inputs.changed ||| bit
    let n : Node := { s.node with inputs :=
      { levels := s.node.inputs.levels ^^^ bit, changed
        attention := decide (changed &&& s.node.attentionMask ≠ 0) || s.node.trippedWith actionReport } }
    (s.node.level i = level → exec (.inputLevelChange i level) s = .next s)
      ∧ (s.node.level i ≠ level → n.level i = level)
      ∧ (s.node.level i ≠ level → i = 7 → exec (.inputLevelChange i level) s = .next { s with node := n })
      ∧ (s.node.level i ≠ level → i = 5 ∨ i = 6 → n.Calm →
          exec (.inputLevelChange i level) s = .next { s with node := n })
      ∧ (s.node.level i ≠ level → i = 6 → level = false → s.node.inService = true → (n.withCause .personnel).Settles →
          exec (.inputLevelChange i level) s = .next { s with node := (n.withCause .personnel).announced })
      ∧ (s.node.level i ≠ level → i = 6 → level = true → s.node.inService = true → (n.withoutCause .personnel).Settles →
          exec (.inputLevelChange i level) s = .next { s with node := (n.withoutCause .personnel).announced })
      ∧ (s.node.level i ≠ level → i = 5 → level = false → s.node.inService = true →
          (∃ m, s.node.headMove .tilt = some m) → (n.withCause .stowed).Settles →
          exec (.inputLevelChange i level) s = .next { s with node := (n.withCause .stowed).announced })
      ∧ (s.node.level i ≠ level → i = 5 → level = true → s.node.inService = true →
          (∃ m, s.node.headMove .tilt = some m) → (n.withoutCause .stowed).Settles →
          exec (.inputLevelChange i level) s = .next { s with node := (n.withoutCause .stowed).announced })

/-- The inputs that raise a fault at their change (R125, R151, R152): the emergency-stop chain opening raises ESTOP; a tilt
limit's change raises LIMIT while the tilt travels toward an active limit, and nothing otherwise. -/
def Obligations.ChainAndLimitsRaiseFaults : Prop :=
  ∀ (i : Fin 8) (level : Bool) (s : State), s.node.Steady → s.node.inService = true → s.node.level i ≠ level →
    let bit : Byte := 1 <<< i.val
    let changed := s.node.inputs.changed ||| bit
    let n : Node := { s.node with inputs :=
      { levels := s.node.inputs.levels ^^^ bit, changed
        attention := decide (changed &&& s.node.attentionMask ≠ 0) || s.node.trippedWith actionReport } }
    let travels := s.node.drive.tilt.released = true ∨ 0 < s.node.tilt.velocity
    let struck := travels ∧ (s.node.tilt.up = true ∧ n.level 1 = true ∨ s.node.tilt.up = false ∧ n.level 2 = true)
    (i = 0 → level = false → s.node.faults.has .estop = false →
        ∃ b, exec (.inputLevelChange i level) s = .next { s with node := b } ∧ n.FaultTaken .estop b
          ∧ b.ring.velocity = 0 ∧ b.tilt.velocity = 0 ∧ ∀ a, (b.axisDrive a).released = false)
      ∧ (i = 0 → level = true ∨ s.node.faults.has .estop = true →
          exec (.inputLevelChange i level) s = .next { s with node := n })
      ∧ (i = 1 ∨ i = 2 → struck → s.node.faults.has .limit = false →
          ∃ b, exec (.inputLevelChange i level) s = .next { s with node := b } ∧ n.FaultTaken .limit b)
      ∧ (i = 1 ∨ i = 2 → ¬struck ∨ s.node.faults.has .limit = true →
          exec (.inputLevelChange i level) s = .next { s with node := n })

/-- A brake feedback's change (R76, R148, R149): CHANGING passes to AGREED when the feedback now agrees with the output, and an
axis RELEASING whose output is released is then RELEASED; AGREED raises BRAKE when it now disagrees. -/
def Obligations.BrakeFeedbackChange : Prop :=
  ∀ (a : Axis) (level : Bool) (s : State), s.node.Steady →
    let i : Fin 8 := match a with | .ring => 3 | .tilt => 4
    let bit : Byte := 1 <<< i.val
    let changed := s.node.inputs.changed ||| bit
    let d := s.node.axisDrive a
    let n : Node := { s.node with inputs :=
      { levels := s.node.inputs.levels ^^^ bit, changed
        attention := decide (changed &&& s.node.attentionMask ≠ 0) || s.node.trippedWith actionReport } }
    let agreed := n.setAxisDrive a { d with supervision := .agreed }
    s.node.level i ≠ level →
    (d.supervision = .unsupervised → exec (.inputLevelChange i level) s = .next { s with node := n })
      ∧ (d.supervision = .changing ∧ level ≠ d.released ∨ d.supervision = .agreed ∧ level = d.released →
          exec (.inputLevelChange i level) s = .next { s with node := n })
      ∧ (d.supervision = .changing → level = d.released → ¬(d.released = true ∧ s.node.release a = some .releasing) →
          exec (.inputLevelChange i level) s = .next { s with node := agreed })
      ∧ (d.supervision = .changing → level = d.released → d.released = true → s.node.release a = some .releasing →
          (agreed.setRelease a (some .released)).Calm →
          exec (.inputLevelChange i level) s = .next { s with node := agreed.setRelease a (some .released) })
      ∧ (d.supervision = .agreed → level ≠ d.released → s.node.inService = true → s.node.faults.has .brake = false →
          ∃ b, exec (.inputLevelChange i level) s = .next { s with node := b } ∧ n.FaultTaken .brake b)

/-! ## Receiving -/

/-- BURST_START and START_BYTE_FOUND (R2): a burst begins in QUIET and is hunted; it is the node's own when the node drives
the line, or drove a cell of it before (R17); the start byte begins the collection with an empty store. A burst outside QUIET and a
start byte outside HUNT are no events (log entry 10); the quiet time and the window are the values the receiver then holds
(DEDUCED, log entry 13). -/
def Obligations.ReceiverFindsFrame : Prop :=
  ∀ s : State, s.node.Steady →
    (s.node.rx.mode = .quiet → exec .burstStart s = .next { s with node := { s.node with rx :=
        { s.node.rx with mode := .hunt, quietTime := 0, ownBurst := s.node.rx.ownBurst || decide (s.node.tx.driving ≠ []) } } })
      ∧ (s.node.rx.mode ≠ .quiet → exec .burstStart s = .next s)
      ∧ (s.node.rx.mode = .hunt → exec .startByteFound s = .next { s with node := { s.node with rx :=
          { s.node.rx with mode := .collect, window := 0xC3, store := [], byteCount := 0, partialByte := false } } })
      ∧ (s.node.rx.mode ≠ .hunt → exec .startByteFound s = .next s)

/-- FRAME_END (R2, R3, R16 to R19, R21, R22, R29): a hunted burst is discarded; a collected frame is a runt below 10 bytes, then
in error where its length or CRC is wrong; the node's own is dropped uncounted; one that bears the node's own tag and station is
an address clash; in STARTING the rest is filtered; otherwise the filter decides, an accepted HALT goes to the halt logic and
any other accepted frame to the queue of eight, or is missed. A frame end in QUIET is no event (log entry 10), an accepted HALT
waits in a list of the model's own until it is delivered (log entry 1), and the source tag compared for a clash is the word's low
12 bits (DEDUCED, log entry 17). -/
def Obligations.FrameEndJudged : Prop :=
  ∀ (bytes : List Byte) (partialByte : Bool) (s : State), s.node.Steady →
    let len := bytes.length
    let quiet : RxUnit := { s.node.rx with mode := .quiet, quietTime := 8, ownBurst := false }
    let n : Node := { s.node with rx := { quiet with
      store := bytes.take 210, byteCount := min 211 len, partialByte } }
    let frame := bytes.take (len - 2)
    let counted (c : Counters) : Node := { n with counters := c }
    let bad := 210 < len ∨ partialByte = true ∨ len ≠ (byteAt bytes 1).toNat + 10
      ∨ (crc16 frame).toNat ≠ field bytes (len - 2) 2
    let clash := s.node.inService = true ∧ frameSource frame = Live.groupTag s.node.cfg.live
      ∧ frameStation frame = s.node.station
    let passed := s.node.rx.mode = .collect ∧ s.node.rx.ownBurst = false ∧ 10 ≤ len ∧ ¬bad
    let judged := passed ∧ ¬clash ∧ s.node.cue.phase ≠ .starting
    let clashed : Node := { n with rx := { n.rx with clashAge := 0 } }
    (s.node.rx.mode = .quiet → exec (.frameEnd bytes partialByte) s = .next s)
      ∧ (s.node.rx.mode = .hunt →
          exec (.frameEnd bytes partialByte) s = .next { s with node := { s.node with rx := quiet } })
      ∧ (s.node.rx.mode = .collect → s.node.rx.ownBurst = true →
          exec (.frameEnd bytes partialByte) s = .next { s with node := n })
      ∧ (s.node.rx.mode = .collect → s.node.rx.ownBurst = false → len < 10 →
          exec (.frameEnd bytes partialByte) s =
            .next { s with node := counted { n.counters with runt := n.counters.runt.bump } })
      ∧ (s.node.rx.mode = .collect → s.node.rx.ownBurst = false → 10 ≤ len → bad →
          exec (.frameEnd bytes partialByte) s =
            .next { s with node := counted { n.counters with crcError := n.counters.crcError.bump } })
      ∧ (passed → clash → s.node.faults.has .address = true →
          exec (.frameEnd bytes partialByte) s = .next { s with node := clashed })
      ∧ (passed → clash → s.node.faults.has .address = false →
          ∃ b, exec (.frameEnd bytes partialByte) s = .next { s with node := b } ∧ clashed.FaultTaken .address b)
      ∧ (passed → s.node.cue.phase = .starting ∨ (judged ∧ s.node.filterVerdict frame = .filtered) →
          exec (.frameEnd bytes partialByte) s =
            .next { s with node := counted { n.counters with filtered := n.counters.filtered.bump } })
      ∧ (judged → s.node.filterVerdict frame = .unexpectedStation →
          exec (.frameEnd bytes partialByte) s =
            .next { s with node := counted { n.counters with unexpectedStation := n.counters.unexpectedStation.bump } })
      ∧ (judged → s.node.filterVerdict frame = .accepted → frameKind frame ≠ 4 →
          (n.rx.queue.length < 8 → exec (.frameEnd bytes partialByte) s =
              .next { s with node := { n with rx := { n.rx with queue := n.rx.queue ++ [frame] } } })
            ∧ (8 ≤ n.rx.queue.length → exec (.frameEnd bytes partialByte) s =
                .next { s with node := counted { n.counters with missed := n.counters.missed.bump } }))
      ∧ (judged → s.node.filterVerdict frame = .accepted → frameKind frame = 4 →
          exec (.frameEnd bytes partialByte) s = .next { s with node := { n with rx := { n.rx with halts :=
            [{ reason := HaltReason.ofCode (byteAt frame 8).toNat, origin := min (byteAt frame 9).toNat 31 }] } } })

/-- The acceptance filter (R26, R32 to R38): the header, the class of the destination with the listen hash of R33, and the
checks of each kind, for a group tag in its configured range. A PERMIT's listed tags are compared as whole 16-bit words (DEDUCED,
log entry 17). -/
def Obligations.AcceptanceFilter : Prop :=
  ∀ (n : Node) (f : List Byte), n.groupTag ≠ 4095 →
    let p := f.drop 8
    let len := frameLength f
    let dest := frameDest f
    let live := n.cfg.live
    let ownGroup := dest = n.groupTag
    let near := dest = 4095 ∨ ownGroup
    let listened := n.inService = true
      ∧ (Live.listenMask live).getLsbD ((dest % 32) ^^^ (dest / 32 % 32) ^^^ (dest / 1024)) = true
    let headerGood := frameVersion f = 1 ∧ 1 ≤ frameKind f ∧ frameKind f ≤ 9 ∧ frameDestWord f < 4096
      ∧ frameSourceWord f < 4096 ∧ frameStation f ≤ 31
    let statusGood := ownGroup ∧ n.inService = true ∧ len = 24 ∧ (Phase.ofCode (field p 0 1)) ≠ none
      ∧ (CueReason.ofCode (field p 23 1)) ≠ none ∧ frameSource f = n.groupTag
    let fitted := frameStation f < Live.ringSize live ∧ Live.isFitted live (frameStation f) = true
    (¬headerGood → n.filterVerdict f = .filtered)
      ∧ (headerGood →
          (frameKind f = 1 →
              (n.filterVerdict f = .accepted ↔ statusGood ∧ fitted)
                ∧ (n.filterVerdict f = .unexpectedStation ↔ statusGood ∧ ¬fitted))
            ∧ (frameKind f ≠ 1 → n.filterVerdict f ≠ .unexpectedStation)
            ∧ (frameKind f = 2 → (n.filterVerdict f = .accepted ↔ (near ∨ listened) ∧ 10 ≤ len ∧ len ≤ 68))
            ∧ (frameKind f = 3 → (n.filterVerdict f = .accepted ↔
                near ∧ 1 ≤ field p 0 1 ∧ field p 0 1 ≤ 8 ∧ len = 1 + 2 * field p 0 1
                  ∧ (ownGroup ∨ n.groupTag ∈ words p 1 (field p 0 1))))
            ∧ (frameKind f = 4 → (n.filterVerdict f = .accepted ↔ near ∧ len = 2))
            ∧ (frameKind f = 5 → (n.filterVerdict f = .accepted ↔ near ∧ len = 3))
            ∧ (frameKind f = 6 → (n.filterVerdict f = .accepted ↔ near ∧ len = 2))
            ∧ (frameKind f = 7 → (n.filterVerdict f = .accepted ↔ ownGroup ∧ len = 3 ∧ field p 0 1 = n.station))
            ∧ (frameKind f = 8 → n.filterVerdict f = .filtered)
            ∧ (frameKind f = 9 → (n.filterVerdict f = .accepted ↔ ownGroup ∧ len = 1 ∧ field p 0 1 = n.station)))

/-- FRAME_COMPLETE (R20, R22, R39 to R41): the frame at the head that its owners have finished with is removed and counted by
its fate; a CUE that is malformed, or outside CONFIG_FAULT does not name the own group, is finished with as filtered; a frame
not finished with stays. -/
def Obligations.FrameCompleteCounts : Prop :=
  ∀ (f : List Byte) (rest : List (List Byte)) (s : State), s.node.Steady → s.node.rx.queue = f :: rest →
    let c := s.node.counters
    let done (c : Counters) : State := { s with node := { s.node with
      rx := { s.node.rx with queue := rest
                             head := .initial }
      counters := c } }
    let fate := s.node.rx.head.fate
    let discarded := frameKind f = 2
      ∧ ∀ r, readCue (f.drop 8) = some r → s.node.inService = true ∧ s.node.groupTag ∉ r.roster
    (fate = some .accepted → exec .frameComplete s = .next (done { c with accepted := c.accepted.bump }))
      ∧ (fate = some .filtered ∨ fate = none ∧ discarded →
          exec .frameComplete s = .next (done { c with filtered := c.filtered.bump }))
      ∧ (fate = some .old → exec .frameComplete s = .next (done { c with old := c.old.bump }))
      ∧ (fate = none → ¬discarded → exec .frameComplete s = .next s)

/-! ## Received frames -/

/-- A STATUS handed to the Peer Table (R39, R44, R112, R115, R139): with a sequence that is new for its entry it replaces the
entry, FRESH, age 0; otherwise it is old and changes nothing. The last silent entry that comes back takes PEER away. A changed
towed set is judged while the ring moves. (No aging of the entry is outstanding, log entry 1.) -/
def Obligations.StatusTakenOrOld : Prop :=
  ∀ (f : List Byte) (rest : List (List Byte)) (e : Entry) (s : State), s.node.Steady →
    s.node.rx.queue = f :: rest → frameKind f = 1 → s.node.rx.head.fate = none →
    s.node.entry (frameStation f) = some e →
    .peerStale (frameStation f) ∉ s.node.due → .peerLost (frameStation f) ∉ s.node.due →
    let ahead := (frameSeq f - e.lastSeq).toNat
    let new := e.freshness = .absent ∨ e.freshness = .lost ∨ (1 ≤ ahead ∧ ahead ≤ 127)
    let fated (x : FrameFate) : RxUnit := { s.node.rx with head := { s.node.rx.head with fate := some x } }
    let n : Node := { s.node with
      rx := fated .accepted
      peers := { s.node.peers with entries := s.node.peers.entries.map (fun x =>
        if x.station = frameStation f then
          { station := frameStation f, freshness := .fresh, age := 0, lastSeq := frameSeq f
            content := decodeStatus (f.drop 8) }
        else x) } }
    let ringMoves := (s.node.cue.phase = .moving ∨ s.node.cue.phase = .holding ∨ s.node.cue.phase = .stopping
      ∨ s.node.cue.phase = .settling) ∧ s.node.headMoves .ring = true
    let judged := n.towedSet ≠ s.node.towedSet ∧ ringMoves ∧ n.towBreach = true
    (¬new → exec .status s = .next { s with node := { s.node with rx := fated .old } })
      ∧ (new → ¬judged → n.Calm → exec .status s = .next { s with node := n })
      ∧ (new → ¬judged → s.node.cue.holds.has .peer = true → n.peerSilent = false → (n.withoutCause .peer).Settles →
          exec .status s = .next { s with node := (n.withoutCause .peer).announced })
      ∧ (new → judged → s.node.faults.has .tow = false →
          ∃ b, exec .status s = .next { s with node := b } ∧ n.FaultTaken .tow b)

/-- The CUE record (R28, R40, section 2.3), as readCue reads it from a payload: the cue id, the roster count and that many tags, the
form flags, then the ring target and speed where bit 0 is set, and the tilt as bits 2 and 1 name its form. The record is
malformed for an id of 0, a roster count outside 1 to 4, a tag that is 0, 4095 or above, form flags above 7, the form 11, a record
that moves no axis, a list count outside 1 to 24, or an implied length that is not the payload's. Of what it asks of a tilt, UNIFORM
gives every station its value, and LIST gives station i its element i, or the last one beyond the list (R68). -/
def Obligations.CueRecordFields : Prop :=
  (∀ p : List Byte,
      let count := field p 2 1
      let tags := (List.range count).map (fun i => field p (3 + 2 * i) 2)
      let flags := field p (3 + 2 * count) 1
      let ringAt := 4 + 2 * count
      let hasRing := flags % 2 = 1
      let form := flags / 2 % 4
      let tiltAt := if hasRing then ringAt + 5 else ringAt
      let values := field p tiltAt 1
      let implied := tiltAt + (if form = 1 then 4 else if form = 2 then 3 + 2 * values else 0)
      let malformed := field p 0 2 = 0 ∨ count < 1 ∨ 4 < count ∨ (∃ x ∈ tags, x = 0 ∨ 4095 ≤ x) ∨ 7 < flags ∨ form = 3
        ∨ (¬hasRing ∧ form = 0) ∨ (form = 2 ∧ (values < 1 ∨ 24 < values)) ∨ implied ≠ p.length
      (malformed → readCue p = none)
        ∧ (¬malformed → readCue p = some
            { id := BitVec.ofNat 16 (field p 0 2), roster := tags
              ring := if hasRing then some (signedOf 24 (field p ringAt 3), field p (ringAt + 3) 2) else none
              tilt :=
                if form = 1 then .uniform (field p tiltAt 2) (field p (tiltAt + 2) 2)
                else if form = 2 then
                  .list ((List.range values).map (fun i => field p (tiltAt + 1 + 2 * i) 2))
                    (field p (tiltAt + 1 + 2 * values) 2)
                else .none }))
    ∧ ∀ (r : CueRecord) (station : Nat),
        (r.tilt = .none → Node.tiltTargetFor r station = none ∧ Node.tiltValues r = [])
          ∧ (∀ value speed, r.tilt = .uniform value speed →
              Node.tiltTargetFor r station = some value ∧ Node.tiltValues r = [value] ∧ Node.tiltSpeedOf r = speed)
          ∧ ∀ list speed, r.tilt = .list list speed →
              (station < list.length → Node.tiltTargetFor r station = list[station]?)
                ∧ (list.length ≤ station → Node.tiltTargetFor r station = list[list.length - 1]?)
                ∧ Node.tiltValues r = list ∧ Node.tiltSpeedOf r = speed

/-- A CUE at the head of the queue (R40, R41, R63, R66 to R71): discarded when malformed or not naming the own group; a held id
is a duplicate; the first check that fails refuses it and writes the refusal record, a status event unless the record stands so
already; otherwise it joins the queue with its targets and resolved speeds. -/
def Obligations.CueJudged : Prop :=
  ∀ (f : List Byte) (rest : List (List Byte)) (s : State), s.node.Steady →
    s.node.rx.queue = f :: rest → frameKind f = 2 → s.node.rx.head.fate = none →
    let live := s.node.cfg.live
    let fated (x : FrameFate) : Node :=
      { s.node with rx := { s.node.rx with head := { s.node.rx.head with fate := some x } } }
    let n := fated .accepted
    let c := s.node.counters
    ((readCue (f.drop 8) = none ∨ ∃ r, readCue (f.drop 8) = some r ∧ s.node.inService = true
          ∧ s.node.groupTag ∉ r.roster) →
        exec .cue s = .next { s with node := fated .filtered })
      ∧ ∀ r, readCue (f.drop 8) = some r → s.node.inService = false ∨ s.node.groupTag ∈ r.roster →
        let held := (∃ x ∈ s.node.cue.queue, x.id = r.id) ∨ ∃ x ∈ s.node.cue.retired, x.id = r.id
        let state := s.node.cue.phase = .halted ∨ s.node.cue.phase = .configFault
        let full := 4 ≤ s.node.cue.queue.length
        let range := (∃ t u, r.ring = some (t, u) ∧ (t < Live.ringMin live ∨ Live.ringMax live < t))
          ∨ ∃ v ∈ Node.tiltValues r, Live.tiltMax live < v
        let tilts := r.tilt ≠ .none
        let shape := tilts ∧ ∃ a ∈ s.node.peers.map.fitted, ∃ b ∈ s.node.peers.map.fitted,
          s.node.peers.map.adjacent a b = true ∧ ∃ x y, Node.tiltTargetFor r a = some x ∧ Node.tiltTargetFor r b = some y
            ∧ y + Live.window live .tilt < x
        let stowed := tilts ∧ s.node.level 5 = false
        let refused (why : CueReason) : Node := { n with
          counters := { c with cuesRefused := c.cuesRefused.bump }
          cue := { n.cue with refusal := { id := r.id, reason := why } } }
        let refuses (why : CueReason) :=
          (s.node.cue.refusal = { id := r.id, reason := why } →
              exec .cue s = .next { s with node := refused why })
            ∧ (s.node.cue.refusal ≠ { id := r.id, reason := why } → s.node.cue.phase ≠ .starting →
                (refused why).Settles → exec .cue s = .next { s with node := (refused why).announced })
        let speed (a : Axis) (sent : Nat) := if sent = 0 then Live.cruiseMax live a else min sent (Live.cruiseMax live a)
        let entry : Cue := { id := r.id, interrupted := false
                             ring := r.ring.map (fun t => { target := t.1, speed := speed .ring t.2 })
                             tilt := (Node.tiltTargetFor r s.node.station).map
                               (fun t => { target := t, speed := speed .tilt (Node.tiltSpeedOf r) }) }
        let accepted : Node := { n with
          counters := { c with cuesAccepted := c.cuesAccepted.bump }
          cue := { n.cue with queue := n.cue.queue ++ [entry] } }
        (held → exec .cue s =
            .next { s with node := { n with counters := { c with duplicateCues := c.duplicateCues.bump } } })
          ∧ (¬held → state → refuses .state)
          ∧ (¬held → ¬state → full → refuses .full)
          ∧ (¬held → ¬state → ¬full → range → refuses .range)
          ∧ (¬held → ¬state → ¬full → ¬range → shape → refuses .shape)
          ∧ (¬held → ¬state → ¬full → ¬range → ¬shape → stowed → refuses .stowed)
          ∧ (¬held → ¬state → ¬full → ¬range → ¬shape → ¬stowed → accepted.Calm →
              exec .cue s = .next { s with node := accepted })

/-- The head's arming and its end. A head in IDLE, once no fault is latched and every entry is FRESH (R57, R65, R71 to R73): with
every digest equal to the own start digest the wagon is ARMED and the arm timer runs; otherwise the head is retired FAILED with
CONFIG. ARM_TIMER_EXPIRY in ARMED (R65, R71, R73, R76), for the mark that a control tick has set (log entry 1): the head is
retired FAILED, the refusal record names it with TIMEOUT, the phase is IDLE, and the change is a status event. -/
def Obligations.HeadArmsFailsOrTimesOut : Prop :=
  (∀ (c : Cue) (rest : List Cue) (n : Node), n.cue.phase = .idle → n.cue.queue = c :: rest →
      n.faults = 0 → n.statusEvent = false → (∀ e ∈ n.peers.entries, e.freshness = .fresh) → .arm ∉ n.due →
      (∀ a, (n.axisDrive a).released = false) → n.cue.holds = n.wantedHolds →
      let agree := ∀ e ∈ n.peers.entries, e.content.digest = n.cfg.startDigest
      let armed : Node := { n with cue := { n.cue with
        phase := .armed, arm := Live.armTicks n.cfg.live, armRunning := true } }
      let retired := n.cue.retired ++ [{ id := c.id, how := .failed }]
      let failed : Node := { n with
        cue := { n.cue with queue := rest, retired := retired.drop (retired.length - 4)
                            refusal := { id := c.id, reason := .config } }
        counters := { n.counters with retiredFailed := n.counters.retiredFailed.bump } }
      (agree → armed.Settles → Node.finish false n = armed.announced)
        ∧ (¬agree → n.cue.refusal ≠ { id := c.id, reason := .config } → failed.Settles →
            Node.finish false n = failed.announced))
    ∧ (∀ (c : Cue) (rest : List Cue) (s : State), s.node.Steady → .arm ∈ s.node.due → s.node.cue.phase = .armed →
      s.node.cue.queue = c :: rest →
      let retired := s.node.cue.retired ++ [{ id := c.id, how := .failed }]
      let n : Node := { s.node with
        due := s.node.due.filter (fun d => d ≠ .arm)
        cue := { s.node.cue with
          phase := .idle, queue := rest, retired := retired.drop (retired.length - 4)
          refusal := { id := c.id, reason := .timeout }, arm := 0, armRunning := false
          ringRelease := none, tiltRelease := none }
        counters := { s.node.counters with retiredFailed := s.node.counters.retiredFailed.bump } }
      n.Settles → exec .armTimerExpiry s = .next { s with node := n.announced })

/-- A PERMIT at the head of the queue (R39, R111, R112, R115): the permit timer runs from permit_ticks; a timer that was not
running takes hold cause PERMIT away, and so lets a held move resume. (No lowering is outstanding, log entry 1; in CONFIG_FAULT
the spec gives no permit time, log entry 6.) PERMIT_TIMER_EXPIRY (R111, R112, R114), for the mark that a control tick has set (log
entry 1): the timer is not running, hold cause PERMIT is present, a wagon in MOVING passes to HOLDING, and the change of the hold
cause set is a status event. -/
def Obligations.PermitRunsAndExpires : Prop :=
  (∀ (f : List Byte) (rest : List (List Byte)) (s : State), s.node.Steady →
      s.node.rx.queue = f :: rest → frameKind f = 3 → s.node.rx.head.fate = none → .permit ∉ s.node.due →
      let n : Node := { s.node with
        rx := { s.node.rx with head := { s.node.rx.head with fate := some .accepted } }
        cue := { s.node.cue with permit := some s.node.permitTicks } }
      (s.node.inService = true → s.node.permitTicks = Live.permitTicks s.node.cfg.live)
        ∧ (s.node.cue.permit ≠ none → exec .permit s = .next { s with node := n })
        ∧ (s.node.cue.permit = none → s.node.cue.phase ≠ .starting → (n.withoutCause .permit).Settles →
            exec .permit s = .next { s with node := (n.withoutCause .permit).announced }))
    ∧ (∀ (t : Nat) (s : State), s.node.Steady → .permit ∈ s.node.due → s.node.cue.phase ≠ .starting →
      s.node.cue.permit = some t →
      let n : Node := { s.node with
        due := s.node.due.filter (fun d => d ≠ .permit)
        cue := { s.node.cue with permit := none } }
      (n.withCause .permit).Settles →
        exec .permitTimerExpiry s = .next { s with node := (n.withCause .permit).announced })

/-- The start of a move (R55, R58, R75, R76, R85, R91, R139, R147, R148): a step that finds an ARMED wagon with every entry FRESH
and armed for its head or past it, with a permit, no hold cause and no peer's refusal, takes it to MOVING. Each axis the head moves takes its target and its
direction, its brake is released, and it is RELEASING, or RELEASED at once where a supervised brake is lifted already; any other
axis is as it was. The change is a status event. A towed set that breaks the limits halts a ring move at its start. -/
def Obligations.MoveStarts : Prop :=
  ∀ (c : Cue) (rest : List Cue) (n : Node), n.cue.phase = .armed → n.cue.queue = c :: rest →
    (∀ e ∈ n.peers.entries, e.freshness = .fresh ∧ (e.content.lastDone = c.id ∨ e.content.current = c.id
        ∧ (e.content.phase = .armed ∨ e.content.phase = .moving ∨ e.content.phase = .holding
            ∨ e.content.phase = .settling ∨ e.content.phase = .done))) →
    (∀ e ∈ n.peers.entries, e.station ≠ n.station → e.content.refusal.id ≠ c.id) →
    n.cue.permit ≠ none → n.cue.holds = 0 → n.wantedHolds = 0 →
    n.faults = 0 → n.statusEvent = false →
    (∀ a, (n.axisDrive a).released = false ∧ .brake a ∉ n.due) →
    (∀ e ∈ n.peers.entries, e.station = n.station → e.content.ringMode = n.ringMode) →
    let moves (a : Axis) : Option AxisMove := match a with | .ring => c.ring | .tilt => c.tilt
    let started (a : Axis) : Planner := match moves a with
      | none => n.planner a
      | some m => { n.planner a with
          target := m.target * 65536, up := decide ((n.planner a).setpoint ≤ m.target * 65536), velocity := 0, pinch := 0 }
    let lifted (a : Axis) := (n.axisDrive a).supervision ≠ .unsupervised ∧ n.brakeLifted a = true
    let release (a : Axis) : Option Release := match moves a with
      | none => n.release a
      | some _ => if lifted a then some .released else some .releasing
    let cue : CueCtl := { n.cue with
      phase := .moving, armRunning := false, queue := { c with interrupted := false } :: rest
      ringRelease := release .ring, tiltRelease := release .tilt }
    let breach := c.ring ≠ none ∧ n.towBreach = true
    let b := Node.finish false n
    (¬breach → (∃ a m, moves a = some m ∧ (m.target * 65536 ≠ (n.planner a).setpoint ∨ a = .ring ∧ n.ringMode = .towed)) →
        b.cue = cue ∧ (∀ a, b.planner a = started a)
          ∧ (∀ a, b.axisDrive a = (match moves a with
              | none => n.axisDrive a
              | some _ =>
                if (n.axisDrive a).supervision = .unsupervised then { n.axisDrive a with released := true }
                else if n.brakeLifted a then { n.axisDrive a with released := true, supervision := .agreed }
                else { n.axisDrive a with
                  released := true, supervision := .changing, brakeTimer := Live.brakeTicks n.cfg.live }))
          ∧ b.faults = 0 ∧ b.rx = n.rx ∧ b.ringMode = n.ringMode ∧ b.supplyScale = n.supplyScale ∧ b.inputs = n.inputs
          ∧ b.monitor = n.monitor ∧ b.cfg = n.cfg ∧ b.tx.halt = n.tx.halt ∧ b.tx.report = n.tx.report
          ∧ n.StatusFollows b)
      ∧ (breach →
          let m : Node := { n with
            ring := started .ring, tilt := started .tilt
            cue := { cue with
              ringRelease := (moves .ring).elim n.cue.ringRelease (fun _ => some .releasing)
              tiltRelease := (moves .tilt).elim n.cue.tiltRelease (fun _ => some .releasing) } }
          m.FaultTaken .tow b)

/-- The changes of phase that follow of themselves, each as soon as its conditions hold together, and each a status event (R50).
ARMED: a peer's refusal fails the head (R74). MOVING: a hold cause takes it to HOLDING (R114); once every axis the head moves is
RELEASED and at its target it is SETTLING, the settle count and the moved axes' velocity memories 0 (R77, R100), a towed ring axis
judged at a tick by its measured position (R106). HOLDING: no cause left, every entry FRESH and the permit running, MOVING goes
on (R115). STOPPING: once every moved axis is at rest the brakes are applied, the head is retired CANCELLED, and the wagon is
IDLE (R83). DONE: once all are done the head is retired DONE, it is the last done cue, and the wagon is IDLE (R80). HALTED: once
both axes are at rest the ramp is over (R122). -/
def Obligations.PhaseChangesFollow : Prop :=
  ∀ n : Node, n.statusEvent = false → n.cue.holds = n.wantedHolds → (∀ a, n.brakeCommand a = (n.axisDrive a).released) →
    let into (p : Phase) : Node := { n with cue := { n.cue with phase := p, armRunning := false } }
    let follows (after : Node) := after.Settles → Node.finish false n = after.announced
    let retired (id : CueId) (how : CueEnd) :=
      let l := n.cue.retired ++ [Retired.mk id how]
      l.drop (l.length - 4)
    let atTarget (a : Axis) := n.release a = some .released ∧ (n.planner a).setpoint = (n.planner a).target
      ∧ (a = .ring → n.ringMode = .driven)
    let carried (a : Axis) := n.release a = some .released ∧ a = .ring ∧ n.ringMode = .towed
      ∧ (n.measured .ring - wholeUnits n.ring.target).natAbs ≤ Live.inpos n.cfg.live .ring
    let rested (a : Axis) : Planner := { n.planner a with
      velocity := if n.headMoves a then 0 else (n.planner a).velocity }
    let settling : Node := { n with
      cue := { n.cue with phase := .settling, armRunning := false, settleCount := 0 }
      ring := rested .ring, tilt := rested .tilt
      due := n.due.filter (fun d => d ≠ .settle) }
    (n.cue.phase = .moving → n.cue.holds ≠ 0 → follows (into .holding))
      ∧ (n.cue.phase = .moving → n.cue.holds = 0 → (∀ a m, n.headMove a = some m → atTarget a) → follows settling)
      ∧ (n.cue.phase = .moving → n.cue.holds = 0 → (∀ a m, n.headMove a = some m → atTarget a ∨ carried a) →
          settling.nextConsequence true = none → Node.settled true n = { settling with statusEvent := true })
      ∧ (n.cue.phase = .holding → n.cue.holds = 0 → n.cue.permit ≠ none →
          (∀ e ∈ n.peers.entries, e.freshness = .fresh) → follows (into .moving))
      ∧ (n.cue.phase = .halted → n.cue.ramping = true → n.ring.velocity = 0 → n.tilt.velocity = 0 →
          follows { n with cue := { n.cue with ramping := false } })
      ∧ ∀ (c : Cue) (rest : List Cue), n.cue.queue = c :: rest →
        (n.cue.phase = .armed → (∃ e ∈ n.peers.entries, e.station ≠ n.station ∧ e.freshness = .fresh
              ∧ e.content.refusal.id = c.id) →
            follows { n with
              cue := { n.cue with
                phase := .idle, armRunning := false, ringRelease := none, tiltRelease := none
                queue := rest, retired := retired c.id .failed, refusal := { id := c.id, reason := .peerRefused } }
              counters := { n.counters with retiredFailed := n.counters.retiredFailed.bump } })
          ∧ (n.cue.phase = .done → (∀ e ∈ n.peers.entries, e.content.lastDone = c.id
                ∨ (e.content.current = c.id ∧ e.content.phase = .done) ∨ e.freshness = .lost
                ∨ (e.freshness ≠ .absent ∧ e.content.current ≠ c.id ∧ e.content.lastDone ≠ c.id)) →
              follows { n with
                cue := { n.cue with
                  phase := .idle, armRunning := false, ringRelease := none, tiltRelease := none
                  queue := rest, retired := retired c.id .done, lastDone := c.id }
                counters := { n.counters with retiredDone := n.counters.retiredDone.bump } })
          ∧ (n.cue.phase = .stopping → (∀ a m, n.headMove a = some m → (n.planner a).velocity = 0) →
              rest = [] ∨ n.faults ≠ 0 ∨ (∃ e ∈ n.peers.entries, e.station ≠ n.station ∧ e.freshness ≠ .fresh) →
              let b := Node.finish false n
              b.cue.phase = .idle ∧ b.cue.queue = rest ∧ b.cue.retired = retired c.id .cancelled
                ∧ b.counters.retiredCancelled = n.counters.retiredCancelled.bump
                ∧ b.cue.ringRelease = none ∧ b.cue.tiltRelease = none ∧ b.cue.lastDone = n.cue.lastDone
                ∧ b.cue.refusal = n.cue.refusal ∧ b.cue.permit = n.cue.permit ∧ b.faults = n.faults
                ∧ (∀ a, (b.axisDrive a).released = false ∧ b.planner a = n.planner a)
                ∧ b.ringMode = n.ringMode ∧ b.rx = n.rx ∧ n.StatusFollows b)

/-- A HALT delivered (R21, R123, R124): counted accepted and received; it halts a wagon that is in service and not HALTED
already, and nothing more in the other phases; and a HALT accepted acts before any other command is taken.
The accepted HALTs wait in a list of the model's own until then (log entry 1). -/
def Obligations.HaltDelivered : Prop :=
  (∀ (m : HaltMessage) (rest : List HaltMessage) (s : State), s.node.rstnLow = false → s.node.statusEvent = false →
      s.node.Calm → s.node.rx.halts = m :: rest →
      let n : Node := { s.node with
        rx := { s.node.rx with halts := rest }
        counters := { s.node.counters with
          accepted := s.node.counters.accepted.bump, haltsReceived := s.node.counters.haltsReceived.bump } }
      (s.node.cue.phase = .halted ∨ s.node.inService = false → exec .halt s = .next { s with node := n })
        ∧ (s.node.cue.phase ≠ .halted → s.node.inService = true →
            ∃ b, exec .halt s = .next { s with node := b } ∧ n.HaltTaken m b))
    ∧ ∀ (c : Instr) (m : HaltMessage) (s t : State), s.node.rstnLow = false → s.node.rx.halts = [m] →
        c ≠ .halt → c ≠ .rstnHeldLow → (∀ straps pins, c ≠ .powerOn straps pins) →
        exec .halt s = .next t → exec c s = exec c t

/-- The latch part and the tow part of a CLEAR at the head of the queue (R30, R39, R136, R155, R156): the masked changed
latches take the value bits and the attention flag is worked out anew; a towed wagon in IDLE or HALTED stopped, its drive ready
and no TOW channel tripped, is DRIVEN again, a status event; otherwise the tow part changes nothing. It acts alike where the fault
part of the same CLEAR has already taken the wagon out of HALTED, and leaves the towed set as that fault part is to judge it; a
ring under way by then is planned in the direction of its target (R127; DEDUCED, log entry 27). -/
def Obligations.ClearLatchAndTowParts : Prop :=
  ∀ (f : List Byte) (rest : List (List Byte)) (s : State), s.node.Steady →
    s.node.rx.queue = f :: rest → frameKind f = 5 → s.node.rx.head.fate = none →
    let mask := byteAt f 9
    let value := byteAt f 10
    let carries := (byteAt f 8).getLsbD 0 = true
    let h := s.node.rx.head
    let worked (h' : HeadWork) (n : Node) : Node := { n with rx := { s.node.rx with head := h' } }
    let changed := (s.node.inputs.changed &&& ~~~mask) ||| (value &&& mask)
    let latched : Node := { s.node with inputs := { s.node.inputs with
      changed
      attention := decide (changed &&& s.node.attentionMask ≠ 0) || s.node.trippedWith actionReport } }
    let towEnds := (s.node.cue.phase = .idle ∨ s.node.cue.phase = .halted ∧ s.node.cue.ramping = false ∨ h.freed = true)
      ∧ s.node.ringMode = .towed ∧ s.node.level 7 = true ∧ s.node.trippedWith actionTow = false
    let ring := s.node.ring
    let underWay := s.node.cue.phase.inMotion = true ∧ s.node.headMoves .ring = true
    let driven : Node := { s.node with
      ringMode := .driven
      ring := { ring with up := if underWay then decide (ring.setpoint ≤ ring.target) else ring.up } }
    ∀ h1 h2 : HeadWork,
      h1 = { h with latchDone := true
                    fate := if ¬carries ∨ (h.faultDone = true ∧ h.towDone = true) then some .accepted else none } →
      h2 = { h with towDone := true
                    fate := if h.latchDone = true ∧ h.faultDone = true then some .accepted else none } →
      (h.latchDone = false → exec .clearLatchPart s = .next { s with node := worked h1 latched })
        ∧ (carries → h.towDone = false → ¬towEnds → exec .clearTowPart s = .next { s with node := worked h2 s.node })
        ∧ (carries → h.towDone = false → towEnds → s.node.cue.phase ≠ .starting →
            let after := worked { h2 with breach := some s.node.towBreach } driven
            after.Settles → exec .clearTowPart s = .next { s with node := after.announced })
        ∧ (¬carries → exec .clearTowPart s = .next s ∧ exec .clearFaultPart s = .next s)

/-- The fault part of a CLEAR at the head of the queue (R39, R126, R127): in HALTED stopped each latched fault whose condition
is absent leaves the set, a status event if one does, and an empty set takes the wagon to IDLE; in HALTED ramping and in every
other phase it changes nothing. TOW is read from the towed set as last built and taken, and as this CLEAR found it where its tow
part has been taken first (log entry 27). -/
def Obligations.ClearFaultPart : Prop :=
  ∀ (f : List Byte) (rest : List (List Byte)) (s : State), s.node.Steady →
    s.node.rx.queue = f :: rest → frameKind f = 5 → s.node.rx.head.fate = none →
    (byteAt f 8).getLsbD 0 = true → s.node.rx.head.faultDone = false →
    let n := s.node
    let head : HeadWork := { n.rx.head with faultDone := true
                                            fate := if n.rx.head.latchDone = true ∧ n.rx.head.towDone = true
                                              then some .accepted else none }
    let absent (k : FaultKind) : Prop := match k with
      | .estop => n.level 0 = true
      | .limit => n.level 1 = false ∧ n.level 2 = false
      | .drive => n.level 7 = true
      | .sensor => n.drive.ring.readFails = 0 ∧ n.drive.tilt.readFails = 0
      | .brake => n.level 3 = n.drive.ring.released ∧ n.level 4 = n.drive.tilt.released
      | .monitor => n.trippedWith actionHalt = false
      | .config => n.cfg.lastDigest = n.cfg.startDigest
      | .address => Live.lostThreshold n.cfg.live < n.rx.clashAge.toNat
      | .peerLost => ∀ e ∈ n.peers.entries, e.freshness ≠ .lost
      | .tow => n.rx.head.breach = some false ∨ n.rx.head.breach = none ∧ n.towBreach = false
      | .follow => True
      | .pinch => True
      | .skew => True
    let stopped := n.cue.phase = .halted ∧ n.cue.ramping = false
    ∀ kept : FaultSet, (∀ k, kept.has k = true ↔ n.faults.has k = true ∧ ¬absent k) →
      let cleared : Node := { n with rx := { n.rx with head }, faults := kept }
      let idle : Node := { cleared with
        rx := { n.rx with head := { head with freed := true } }
        cue := { n.cue with
        phase := .idle, armRunning := false, ringRelease := none, tiltRelease := none } }
      (¬stopped → exec .clearFaultPart s = .next { s with node := { n with rx := { n.rx with head } } })
        ∧ (stopped → kept = n.faults → kept ≠ 0 → exec .clearFaultPart s = .next { s with node := cleared })
        ∧ (stopped → kept ≠ n.faults → kept ≠ 0 → cleared.Settles →
            exec .clearFaultPart s = .next { s with node := cleared.announced })
        ∧ (stopped → kept = 0 → idle.Settles → exec .clearFaultPart s = .next { s with node := idle.announced })

/-- A CANCEL at the head of the queue (R39, R65, R76, R81 to R83): of the head it retires CANCELLED in IDLE, ARMED and HALTED,
stops a move that runs or is held, and is ignored in STOPPING, SETTLING and DONE; of a queued cue it retires it wherever it
stands; of any other id it changes nothing. -/
def Obligations.CancelActs : Prop :=
  ∀ (f : List Byte) (rest : List (List Byte)) (s : State), s.node.Steady →
    s.node.rx.queue = f :: rest → frameKind f = 6 → s.node.rx.head.fate = none →
    let id : CueId := BitVec.ofNat 16 (field (f.drop 8) 0 2)
    let n : Node := { s.node with rx := { s.node.rx with head := { s.node.rx.head with fate := some .accepted } } }
    let retired := s.node.cue.retired ++ [{ id, how := .cancelled }]
    let without (q : List Cue) : Node := { n with
      cue := { n.cue with queue := q, retired := retired.drop (retired.length - 4) }
      counters := { n.counters with retiredCancelled := n.counters.retiredCancelled.bump } }
    (s.node.cue.queue = [] → exec .cancel s = .next { s with node := n })
      ∧ ∀ (c : Cue) (others : List Cue), s.node.cue.queue = c :: others →
        (c.id ≠ id → (∀ x ∈ others, x.id ≠ id) → exec .cancel s = .next { s with node := n })
          ∧ (c.id ≠ id → (∃ x ∈ others, x.id = id) →
              exec .cancel s = .next { s with node := without (c :: others.filter (fun x => x.id ≠ id)) })
          ∧ (c.id = id → s.node.cue.phase = .idle ∨ s.node.cue.phase = .halted → (without others).Calm →
              exec .cancel s = .next { s with node := without others })
          ∧ (c.id = id → s.node.cue.phase = .armed →
              let m : Node := { without others with cue := { (without others).cue with
                phase := .idle, armRunning := false, ringRelease := none, tiltRelease := none } }
              m.Settles → exec .cancel s = .next { s with node := m.announced })
          ∧ (c.id = id → s.node.cue.phase = .moving ∨ s.node.cue.phase = .holding →
              let m : Node := { n with cue := { n.cue with phase := .stopping, armRunning := false } }
              m.Settles → exec .cancel s = .next { s with node := m.announced })
          ∧ (c.id = id → s.node.cue.phase = .stopping ∨ s.node.cue.phase = .settling ∨ s.node.cue.phase = .done →
              exec .cancel s = .next { s with node := n })

/-- An INQUIRE at the head of the queue (R14, R25, R31, R39, R180, R183, section 2.5): with the REPORT slot EMPTY the page is built and
placed, addressed to the asker's tag under the report count, and a COUNTERS page asked with the clear flag then sets every
counter to 0; otherwise it is counted as busy. Each page's body is that of section 2.5, from the blocks as they stand (R181),
without a valid configuration with tag 0, attention mask 0 and every channel disabled with action REPORT (R182). -/
def Obligations.InquireAnswered : Prop :=
  ∀ (f : List Byte) (rest : List (List Byte)) (s : State), s.node.Steady →
    s.node.rx.queue = f :: rest → frameKind f = 7 → s.node.rx.head.fate = none →
    let n : Node := { s.node with rx := { s.node.rx with head := { s.node.rx.head with fate := some .accepted } } }
    let asked := (byteAt f 9).toNat
    let page := if 5 < asked then 0 else asked
    let n0 := s.node
    let one (x : Nat) : List Byte := [BitVec.ofNat 8 x]
    let served (x : Nat) : Nat := if n0.inService then x else 0
    let move (width : Nat) (m : Option AxisMove) : List Byte :=
      signedBytes width (m.elim 0 (·.target)) ++ bytesBE 2 (m.elim 0 (·.speed))
    let c := n0.counters
    let body : List Byte := match page with
      | 0 => one n0.cfg.straps.toNat ++ bytesBE 2 (served (Live.groupTag n0.cfg.live)) ++ bytesBE 2 n0.cfg.lastDigest.toNat
          ++ bytesBE 2 n0.cfg.startDigest.toNat ++ one n0.cue.phase.code ++ one n0.cfg.status.code
          ++ one (if n0.ringMode = .towed then 1 else 0)
      | 1 => [c.statusSent, c.haltSent, c.reportSent, c.collisions, c.lateCollisions, c.retryDrops, c.statusOverruns,
          c.haltsMerged, c.inquiriesBusy, c.runt, c.crcError, c.missed, c.filtered, c.old, c.unexpectedStation, c.accepted,
          c.duplicateCues, c.cuesAccepted, c.cuesRefused, c.retiredDone, c.retiredFailed, c.retiredCancelled,
          c.haltsReceived, c.sensorFailures, c.resetRefused].flatMap (fun x => bytesBE 2 x.toNat)
      | 2 => one n0.cue.queue.length
          ++ n0.cue.queue.flatMap (fun x => bytesBE 2 x.id.toNat
              ++ one ((if x.interrupted then 1 else 0) + (if x.ring.isSome then 2 else 0) + (if x.tilt.isSome then 4 else 0))
              ++ move 3 x.ring ++ move 2 x.tilt)
          ++ one n0.cue.retired.length
          ++ n0.cue.retired.flatMap (fun x => bytesBE 2 x.id.toNat
              ++ one (match x.how with | .done => 0 | .failed => 1 | .cancelled => 2))
          ++ bytesBE 2 n0.cue.refusal.id.toNat ++ one n0.cue.refusal.reason.code
          ++ (match n0.cue.haltRecord with
              | some h => one 1 ++ one h.origin ++ one h.reason.code
              | none => one 0 ++ one 0 ++ one 0)
      | 3 => one n0.peers.entries.length
          ++ n0.peers.entries.flatMap (fun e => one e.station
              ++ one (e.content.phase.code
                + 16 * (match e.freshness with | .absent => 0 | .fresh => 1 | .stale => 2 | .lost => 3)
                + (if e.content.ringMode = .towed then 64 else 0))
              ++ one (min e.age.toNat 255) ++ bytesBE 2 e.content.current.toNat ++ bytesBE 2 e.content.lastDone.toNat
              ++ one e.content.demand.toNat)
          ++ bytesBE 2 n0.supplyScale
      | 4 => channels.flatMap (fun i =>
          let r := n0.liveRecord i
          one ((if n0.inService = true ∧ Live.channelEnabled n0.cfg.live i = true then 1 else 0)
              + (if r.tripped then 2 else 0))
            ++ signedBytes 2 r.last ++ one r.outRun ++ one r.inRun ++ one (served (Live.channelAction n0.cfg.live i)))
      | _ => one n0.inputs.levels.toNat ++ one n0.inputs.changed.toNat
          ++ one (served (Live.attentionMask n0.cfg.live).toNat) ++ bytesBE 2 n0.faults.toNat
    let report : Slot :=
      { state := .pending, collisions := 0, replaced := false
        content := header 8 (1 + body.length) (frameSource f) s.node.groupTag s.node.station s.node.reportCount
          ++ [BitVec.ofNat 8 page] ++ body }
    (s.node.tx.report.state = .empty →
        exec .inquire s = .next { s with node := { n with
          tx := { n.tx with report }
          reportCount := n.reportCount + 1
          counters := if page = 1 ∧ (byteAt f 10).getLsbD 0 = true then .zero else n.counters } })
      ∧ (s.node.tx.report.state ≠ .empty →
          exec .inquire s = .next { s with node := { n with
            counters := { n.counters with inquiriesBusy := n.counters.inquiriesBusy.bump } } })

/-- A RESET at the head of the queue (R177, R178): refused and counted in MOVING, HOLDING, STOPPING, SETTLING and HALTED
ramping; otherwise a soft reset, which samples the straps, applies the brakes, empties the queues and the table and begins the
read at once, and keeps the latched faults, the levels and changed latches, the held raw values, the clash age, the last reply
and the random source (R9, R18, R24, R61, R87, R110, R128, R157, R168, R169, R179, R184). The status VALID and the start digest 0
until the read completes, and the random source as it was, are read from the spec by inference (DEDUCED, log entry 16). That TXD is
released within the step, from a jam as from a frame, is the model's choice (DESIGN CHOICE, log entry 29), and so is the own entry
alone in the table (DESIGN CHOICE, log entry 20). -/
def Obligations.ResetRefusedOrTaken : Prop :=
  ∀ (straps : BitVec 5) (f : List Byte) (rest : List (List Byte)) (s : State), s.node.Steady →
    s.node.rx.queue = f :: rest → frameKind f = 9 → s.node.rx.head.fate = none →
    let n : Node := { s.node with cfg := { s.node.cfg with strapPins := straps } }
    let refuses := s.node.cue.phase = .moving ∨ s.node.cue.phase = .holding ∨ s.node.cue.phase = .stopping
      ∨ s.node.cue.phase = .settling ∨ (s.node.cue.phase = .halted ∧ s.node.cue.ramping = true)
    (refuses → exec (.reset straps) s = .next { s with node := { n with
        rx := { n.rx with head := { n.rx.head with fate := some .accepted } }
        counters := { n.counters with resetRefused := n.counters.resetRefused.bump } } })
      ∧ (¬refuses → ∃ b : Node, exec (.reset straps) s = .next { s with node := b }
          ∧ b.cue.phase = .starting ∧ b.cfg.straps = straps ∧ b.cfg.read = .reading ∧ b.cfg.recheck = none
          ∧ b.cfg.mcsLow = true ∧ b.cfg.msi = [0x03, 0x00, 0x00]
          ∧ b.cfg.status = .valid ∧ b.cfg.startDigest = 0
          ∧ (∀ k, (b.slot k).state = .empty) ∧ b.tx.driving = [] ∧ b.tx.random = s.node.tx.random
          ∧ b.rx.queue = [] ∧ b.rx.clashAge = s.node.rx.clashAge ∧ b.rx.mode = s.node.rx.mode
          ∧ b.peers.entries = [{ station := straps.toNat, freshness := .fresh, age := 0, lastSeq := 0, content := .zero }]
          ∧ b.peers.ownSeq = 0 ∧ b.peers.timer = none ∧ b.peers.allowance = true ∧ b.peers.pendingBuild = false
          ∧ b.cue.lastDone = 0 ∧ b.cue.refusal = { id := 0, reason := .none } ∧ b.cue.armRunning = false
          ∧ b.cue.settleCount = 0 ∧ b.cue.ringRelease = none ∧ b.cue.tiltRelease = none
          ∧ b.cue.queue = [] ∧ b.cue.retired = [] ∧ b.cue.permit = none ∧ b.cue.haltRecord = none
          ∧ b.cue.haltCount = 0 ∧ (∀ h : HoldCause, b.cue.holds.has h = true ↔ h = .permit)
          ∧ (∀ a, (b.planner a).velocity = 0 ∧ (b.planner a).pinch = 0) ∧ b.supplyScale = 256 ∧ b.ringMode = .driven
          ∧ b.faults = s.node.faults
          ∧ (∀ a, (b.axisDrive a).raw = (s.node.axisDrive a).raw ∧ (b.axisDrive a).readFails = 0
              ∧ (b.axisDrive a).released = false ∧ (b.axisDrive a).supervision = .unsupervised)
          ∧ b.drive.reply = s.node.drive.reply ∧ b.drive.failedExchanges = 0
          ∧ b.inputs.levels = s.node.inputs.levels ∧ b.inputs.changed = s.node.inputs.changed
          ∧ b.inputs.attention = false
          ∧ (∀ c, b.liveRecord c = { last := 0, outRun := 0, inRun := 0, tripped := false }) ∧ b.monitor.turn = none
          ∧ b.reportCount = 0
          ∧ b.counters = { s.node.counters with
              accepted := s.node.counters.accepted.bump, missed := b.counters.missed }
          ∧ b.counters.missed.toNat = min 65535 (s.node.counters.missed.toNat + rest.length))

/-! ## Transmitting -/

/-- ARBITER_START (R4, R5, R15, R17): at a cell boundary with no burst and no transmission, the first PENDING slot whose defer
time is met goes on the line, HALT at 12 bit-times, then STATUS and REPORT at 24; none does in STARTING. The frame goes out as
cells, the most significant bit of each byte first (R1). The quiet time is an operand of the command, never below what the
receiver has counted since the last burst, and is 0 once the node drives the line (DEDUCED, log entry 13). -/
def Obligations.ArbiterStartsSlot : Prop :=
  ∀ (quiet : BitVec 8) (s : State), s.node.Steady → s.node.rx.mode = .quiet →
    (∀ k, (s.node.slot k).state ≠ .sending) →
    let held := s.node.rx.quietTime
    let reached := if held.toNat < quiet.toNat then quiet else held
    let ready (k : SlotKind) := s.node.cue.phase ≠ .starting ∧ (s.node.slot k).state = .pending
      ∧ (match k with | .halt => 12 | .status => 24 | .report => 24) ≤ reached.toNat
    let onLine (k : SlotKind) : Node :=
      let n := s.node.setSlot k { s.node.slot k with state := .sending, replaced := false }
      let frame := (s.node.slot k).content
      { n with
        tx := { n.tx with driving :=
          ([0x55, 0x55, 0xC3] ++ frame ++ bytesBE 2 (crc16 frame).toNat : List Byte).flatMap (fun byte =>
            [7, 6, 5, 4, 3, 2, 1, 0].map (fun i : Nat => { first := byte.getLsbD i, second := !byte.getLsbD i })) }
        rx := { s.node.rx with quietTime := 0, ownBurst := true } }
    (ready .halt → exec (.arbiterStart quiet) s = .next { s with node := onLine .halt })
      ∧ (¬ready .halt → ready .status → exec (.arbiterStart quiet) s = .next { s with node := onLine .status })
      ∧ (¬ready .halt → ¬ready .status → ready .report →
          exec (.arbiterStart quiet) s = .next { s with node := onLine .report })
      ∧ ((∀ k, ¬ready k) → exec (.arbiterStart quiet) s = .next { s with node :=
          { s.node with rx := { s.node.rx with quietTime := reached } } })

/-- The end of a transmission without a collision (R5, R12 to R14) and a collision (R6): a frame sent is counted and its slot is
EMPTY, or PENDING with the content that replaced it; a collision is counted in the slot and in the counters, late from cell 64
on, and the jam begins: 32 cells of alternating value, the first a 1 (R1, R7). The node's own cells leave the quiet time at 0
(R1). -/
def Obligations.TransmissionEndsOrCollides : Prop :=
  ∀ (k : SlotKind) (cell : Option Nat) (s : State), s.node.Steady → (s.node.slot k).state = .sending →
    (∀ j, j ≠ k → (s.node.slot j).state ≠ .sending) → s.node.tx.jam = none →
    let x := s.node.slot k
    let c := s.node.counters
    let late := ∃ i, cell = some i ∧ 64 ≤ i
    let after : Slot := if x.replaced then { state := .pending, content := x.content, collisions := 0, replaced := false }
      else { state := .empty, content := [], collisions := 0, replaced := false }
    let sent : Counters := match k with
      | .status => { c with statusSent := c.statusSent.bump }
      | .halt => { c with haltSent := c.haltSent.bump }
      | .report => { c with reportSent := c.reportSent.bump }
    exec .transmitSuccess s = .next { s with node :=
        { s.node.setSlot k after with
          tx := { (s.node.setSlot k after).tx with driving := [], jam := none }
          rx := { s.node.rx with quietTime := 0 }, counters := sent } }
      ∧ ∀ isLate : Bool, (isLate = true ↔ late) →
        let hit := s.node.setSlot k { x with collisions := x.collisions.bump }
        exec (.collision cell) s = .next { s with node :=
          { hit with
            tx := { hit.tx with
              driving := (List.range 32).map (fun i => { first := i % 2 == 0, second := i % 2 == 1 }), jam := some isLate }
            rx := { s.node.rx with quietTime := 0 }
            counters := { c with
              collisions := c.collisions.bump
              lateCollisions := if isLate then c.lateCollisions.bump else c.lateCollisions } } }

/-- JAM_END and BACKOFF_END (R7 to R10): a STATUS or REPORT frame is dropped after a late collision, or at its tenth, which is
counted; a HALT frame and every other goes to its backoff of r × 64 bit-times, r the low bits of the stepped random source, or
at once PENDING when r is 0; the end of the backoff makes it PENDING. The drop, and its count at the tenth collision, are made at
the end of the jam (DEDUCED, log entry 15), which leaves the quiet time at 0 (R1). -/
def Obligations.JamEndsInBackoffOrDrop : Prop :=
  (∀ (k : SlotKind) (late : Bool) (s : State), s.node.Steady → (s.node.slot k).state = .sending →
      (∀ j, j ≠ k → (s.node.slot j).state ≠ .sending) → s.node.tx.jam = some late →
      let x := s.node.slot k
      let g := s.node.tx.random
      let g' : BitVec 16 := if g.getLsbD 0 then (g >>> 1) ^^^ 0xB400 else g >>> 1
      let r := g'.toNat % 2 ^ (min x.collisions.toNat 6)
      let drops := k ≠ .halt ∧ (late = true ∨ 10 ≤ x.collisions.toNat)
      let dropped : Slot := if x.replaced then
          { state := .pending, content := x.content, collisions := 0, replaced := false }
        else { state := .empty, content := [], collisions := 0, replaced := false }
      let waits : Slot := { x with state := if r = 0 then .pending else .backoff (r * 64), replaced := false }
      (¬drops → exec .jamEnd s = .next { s with node :=
          { s.node.setSlot k waits with
            tx := { (s.node.setSlot k waits).tx with random := g', driving := [], jam := none }
            rx := { s.node.rx with quietTime := 0 } } })
        ∧ (drops → exec .jamEnd s = .next { s with node :=
            { s.node.setSlot k dropped with
              tx := { (s.node.setSlot k dropped).tx with driving := [], jam := none }
              rx := { s.node.rx with quietTime := 0 }
              counters := { s.node.counters with
                retryDrops := if late then s.node.counters.retryDrops else s.node.counters.retryDrops.bump } } }))
    ∧ ∀ (k : SlotKind) (t : Nat) (s : State), s.node.Steady → (s.node.slot k).state = .backoff t →
        exec (.backoffEnd k) s =
          .next { s with node := s.node.setSlot k { s.node.slot k with state := .pending } }

/-! ## An upset -/

/-- LIVE_COPY_ALTERATION (R176): in service, one byte of bytes 21 to 79 of the live copy takes another value and nothing else
changes; the start digest and the last digest stand until the next recheck. RECHECK_TIMER_EXPIRY (R175, R176), for the mark that a
control tick has set (log entry 1): the CRC over bytes 21 to 79 of the live copy is stored as the last digest and the timer set to
256; a digest that differs from the start digest raises CONFIG. -/
def Obligations.UpsetIsFoundAtRecheck : Prop :=
  (∀ (address : Nat) (value : Byte) (s : State), s.node.Steady → s.node.inService = true → 21 ≤ address → address ≤ 79 →
      ∃ live : List Byte,
        exec (.liveCopyAlteration address value) s =
          .next { s with node := { s.node with cfg := { s.node.cfg with live } } }
        ∧ live.length = s.node.cfg.live.length
        ∧ (address < live.length → byteAt live address = value)
        ∧ ∀ i, i ≠ address → byteAt live i = byteAt s.node.cfg.live i)
    ∧ (∀ s : State, s.node.Steady → .recheck ∈ s.node.due →
      let digest := crc16 ((s.node.cfg.live.drop 21).take 59)
      let n : Node := { s.node with
        due := s.node.due.filter (fun d => d ≠ .recheck)
        cfg := { s.node.cfg with lastDigest := digest, recheck := some 256 } }
      (digest = s.node.cfg.startDigest ∨ s.node.inService = false ∨ s.node.faults.has .config = true →
          exec .recheckTimerExpiry s = .next { s with node := n })
        ∧ (digest ≠ s.node.cfg.startDigest → s.node.inService = true → s.node.faults.has .config = false →
            ∃ b, exec .recheckTimerExpiry s = .next { s with node := b } ∧ n.FaultTaken .config b))

/-! ## What every step keeps -/

/-- Every command keeps the bounds of the spec, each from every state that has it: at most four cues and four retired records
with no id held twice (R64 to R66), at most eight frames (R19), a supply scale from 32 to 256 (R92), failure counts of at most 2
(R141, R145), runs of at most 255, never both above 0 (R159, R163), and peer entries in ascending order of station (R42). -/
def Obligations.BoundsAreKept : Prop :=
  ∀ (c : Instr) (s t : State), exec c s = .next t →
    (s.node.CueLaw → t.node.CueLaw) ∧ (s.node.ReceiveLaw → t.node.ReceiveLaw) ∧ (s.node.ScaleLaw → t.node.ScaleLaw)
      ∧ (s.node.FailureLaw → t.node.FailureLaw) ∧ (s.node.RunLaw → t.node.RunLaw) ∧ (s.node.EntryLaw → t.node.EntryLaw)

/-- Every command keeps the brakes and the hold causes in step (R112, R147): a brake is released only where R147 commands it,
and each cause is present exactly while its condition holds. -/
def Obligations.BrakesAndHoldsStayInStep : Prop :=
  ∀ (c : Instr) (s t : State), exec c s = .next t →
    (s.node.BrakeLaw → t.node.BrakeLaw) ∧ (s.node.HoldLaw → t.node.HoldLaw)

/-- Every command keeps R114 and what it rests on: a wagon in MOVING has its permit timer running, no hold cause, no latched
fault and every entry FRESH; a latched fault stands only in HALTED, or kept through a restart in STARTING and CONFIG_FAULT
(R118, R119, R126, R128); and in the phases of motion no entry is ABSENT (R55, R75). -/
def Obligations.MovingIsAlwaysClear : Prop :=
  ∀ (c : Instr) (s t : State), s.node.FaultLaw → s.node.HeardLaw → s.node.MovingLaw → exec c s = .next t →
    t.node.FaultLaw ∧ t.node.HeardLaw ∧ t.node.MovingLaw

/-- Every command keeps every move on its course (R91, R95, R97, R98, R101, R103, R106, R133): the target lies at or ahead of
the setpoint in the direction of travel for every axis that moves or is to move, so no setpoint passes its target; a towed ring
has no velocity memory; and a wagon in a phase of motion has a head. -/
def Obligations.SetpointsNeverPassTargets : Prop :=
  ∀ (c : Instr) (s t : State), s.node.FaultLaw → s.node.CourseLaw → exec c s = .next t →
    t.node.FaultLaw ∧ t.node.CourseLaw

/-- Every command but an upset of the live copy keeps each setpoint and target within the soft limits, each velocity memory within
the cruise step at the configured maximum, and the targets and speeds of the queue within theirs (R67, R70, R108, R109). From one
control tick to the next a setpoint moves by no more than that cruise step, but where it follows the measured position, after
ESTOP and on a towed ring (R109). -/
def Obligations.SetpointsKeepSoftLimits : Prop :=
  ∀ (c : Instr) (s t : State), (∀ address value, c ≠ .liveCopyAlteration address value) →
    s.node.FaultLaw → s.node.CourseLaw → s.node.LimitLaw → exec c s = .next t →
    t.node.LimitLaw
      ∧ ∀ (order : List TickBlock) (a : Axis), c = .controlTick order → t.node.inService = true →
          t.node.faults.has .estop = false → (a = .ring → t.node.ringMode = .driven) →
          ((t.node.planner a).setpoint - (s.node.planner a).setpoint).natAbs
            ≤ Live.cruiseMax s.node.cfg.live a * 262144 / 1000

/-- A latched fault is cleared only by power-on, or by the fault part of a CLEAR (R126, R128), taken in HALTED stopped while the
fault's condition is absent (R127): as the wagon stands once the accepted HALTs are delivered (R21), and, where a control tick
takes the fault part of a CLEAR still waiting at the head (R20, log entry 1), once what else is due by that tick has been
taken, which is the wagon as it stands where nothing is. -/
def Obligations.FaultsAreClearedOnlyByClear : Prop :=
  ∀ (c : Instr) (s t : State) (k : FaultKind), s.node.faults.has k = true → exec c s = .next t →
    t.node.faults.has k = false →
    (∃ straps pins, c = .powerOn straps pins)
      ∨ ((c = .clearFaultPart ∨ ∃ order, c = .controlTick order)
          ∧ ∃ f rest, s.node.rx.queue = f :: rest ∧ frameKind f = 5 ∧ (byteAt f 8).getLsbD 0 = true
            ∧ s.node.rx.head.faultDone = false
            ∧ let clears (n : Node) := n.cue.phase = .halted ∧ n.cue.ramping = false ∧ n.faultAbsent k = true
              (c = .clearFaultPart → clears s.node.deliverHalts)
                ∧ (c = .clearFaultPart → s.node.rx.halts = [] → clears s.node)
                ∧ (c ≠ .clearFaultPart →
                    clears (Node.finish false s.node.deliverHalts.forceDue.forceLinks.applyClearLatch))
                ∧ (c ≠ .clearFaultPart → s.node.Steady → s.node.due = [] → s.node.drive.exchanging = false →
                    (∀ a, (s.node.axisDrive a).reading = false) → clears s.node))

end
end

