-- ==== Sys2Proof/Laws/State.lean ====
section
/-! SUPPORT. One lemma per field per update: what each shared operation of Machine/Ops.lean leaves as it was. -/

namespace Sys2Proof.Machine.Node

/-! ### note -/

@[simp] theorem note_rstnLow (n : Node) : (note n).rstnLow = n.rstnLow := by unfold note; split <;> rfl
@[simp] theorem note_tx (n : Node) : (note n).tx = n.tx := by unfold note; split <;> rfl
@[simp] theorem note_rx (n : Node) : (note n).rx = n.rx := by unfold note; split <;> rfl
@[simp] theorem note_peers (n : Node) : (note n).peers = n.peers := by unfold note; split <;> rfl
@[simp] theorem note_cue (n : Node) : (note n).cue = n.cue := by unfold note; split <;> rfl
@[simp] theorem note_ring (n : Node) : (note n).ring = n.ring := by unfold note; split <;> rfl
@[simp] theorem note_tilt (n : Node) : (note n).tilt = n.tilt := by unfold note; split <;> rfl
@[simp] theorem note_supplyScale (n : Node) : (note n).supplyScale = n.supplyScale := by unfold note; split <;> rfl
@[simp] theorem note_ringMode (n : Node) : (note n).ringMode = n.ringMode := by unfold note; split <;> rfl
@[simp] theorem note_faults (n : Node) : (note n).faults = n.faults := by unfold note; split <;> rfl
@[simp] theorem note_drive (n : Node) : (note n).drive = n.drive := by unfold note; split <;> rfl
@[simp] theorem note_inputs (n : Node) : (note n).inputs = n.inputs := by unfold note; split <;> rfl
@[simp] theorem note_monitor (n : Node) : (note n).monitor = n.monitor := by unfold note; split <;> rfl
@[simp] theorem note_cfg (n : Node) : (note n).cfg = n.cfg := by unfold note; split <;> rfl
@[simp] theorem note_reportCount (n : Node) : (note n).reportCount = n.reportCount := by unfold note; split <;> rfl
@[simp] theorem note_counters (n : Node) : (note n).counters = n.counters := by unfold note; split <;> rfl
@[simp] theorem note_due (n : Node) : (note n).due = n.due := by unfold note; split <;> rfl

/-! ### setRefusal -/

@[simp] theorem setRefusal_rstnLow (id : CueId) (r : CueReason) (n : Node) : (setRefusal id r n).rstnLow = n.rstnLow := by unfold setRefusal; split <;> simp
@[simp] theorem setRefusal_tx (id : CueId) (r : CueReason) (n : Node) : (setRefusal id r n).tx = n.tx := by unfold setRefusal; split <;> simp
@[simp] theorem setRefusal_rx (id : CueId) (r : CueReason) (n : Node) : (setRefusal id r n).rx = n.rx := by unfold setRefusal; split <;> simp
@[simp] theorem setRefusal_peers (id : CueId) (r : CueReason) (n : Node) : (setRefusal id r n).peers = n.peers := by unfold setRefusal; split <;> simp
@[simp] theorem setRefusal_ring (id : CueId) (r : CueReason) (n : Node) : (setRefusal id r n).ring = n.ring := by unfold setRefusal; split <;> simp
@[simp] theorem setRefusal_tilt (id : CueId) (r : CueReason) (n : Node) : (setRefusal id r n).tilt = n.tilt := by unfold setRefusal; split <;> simp
@[simp] theorem setRefusal_supplyScale (id : CueId) (r : CueReason) (n : Node) : (setRefusal id r n).supplyScale = n.supplyScale := by unfold setRefusal; split <;> simp
@[simp] theorem setRefusal_ringMode (id : CueId) (r : CueReason) (n : Node) : (setRefusal id r n).ringMode = n.ringMode := by unfold setRefusal; split <;> simp
@[simp] theorem setRefusal_faults (id : CueId) (r : CueReason) (n : Node) : (setRefusal id r n).faults = n.faults := by unfold setRefusal; split <;> simp
@[simp] theorem setRefusal_drive (id : CueId) (r : CueReason) (n : Node) : (setRefusal id r n).drive = n.drive := by unfold setRefusal; split <;> simp
@[simp] theorem setRefusal_inputs (id : CueId) (r : CueReason) (n : Node) : (setRefusal id r n).inputs = n.inputs := by unfold setRefusal; split <;> simp
@[simp] theorem setRefusal_monitor (id : CueId) (r : CueReason) (n : Node) : (setRefusal id r n).monitor = n.monitor := by unfold setRefusal; split <;> simp
@[simp] theorem setRefusal_cfg (id : CueId) (r : CueReason) (n : Node) : (setRefusal id r n).cfg = n.cfg := by unfold setRefusal; split <;> simp
@[simp] theorem setRefusal_reportCount (id : CueId) (r : CueReason) (n : Node) : (setRefusal id r n).reportCount = n.reportCount := by unfold setRefusal; split <;> simp
@[simp] theorem setRefusal_counters (id : CueId) (r : CueReason) (n : Node) : (setRefusal id r n).counters = n.counters := by unfold setRefusal; split <;> simp
@[simp] theorem setRefusal_due (id : CueId) (r : CueReason) (n : Node) : (setRefusal id r n).due = n.due := by unfold setRefusal; split <;> simp

/-! ### setHolds -/

@[simp] theorem setHolds_rstnLow (h : HoldSet) (n : Node) : (setHolds h n).rstnLow = n.rstnLow := by unfold setHolds; split <;> simp
@[simp] theorem setHolds_tx (h : HoldSet) (n : Node) : (setHolds h n).tx = n.tx := by unfold setHolds; split <;> simp
@[simp] theorem setHolds_rx (h : HoldSet) (n : Node) : (setHolds h n).rx = n.rx := by unfold setHolds; split <;> simp
@[simp] theorem setHolds_peers (h : HoldSet) (n : Node) : (setHolds h n).peers = n.peers := by unfold setHolds; split <;> simp
@[simp] theorem setHolds_ring (h : HoldSet) (n : Node) : (setHolds h n).ring = n.ring := by unfold setHolds; split <;> simp
@[simp] theorem setHolds_tilt (h : HoldSet) (n : Node) : (setHolds h n).tilt = n.tilt := by unfold setHolds; split <;> simp
@[simp] theorem setHolds_supplyScale (h : HoldSet) (n : Node) : (setHolds h n).supplyScale = n.supplyScale := by unfold setHolds; split <;> simp
@[simp] theorem setHolds_ringMode (h : HoldSet) (n : Node) : (setHolds h n).ringMode = n.ringMode := by unfold setHolds; split <;> simp
@[simp] theorem setHolds_faults (h : HoldSet) (n : Node) : (setHolds h n).faults = n.faults := by unfold setHolds; split <;> simp
@[simp] theorem setHolds_drive (h : HoldSet) (n : Node) : (setHolds h n).drive = n.drive := by unfold setHolds; split <;> simp
@[simp] theorem setHolds_inputs (h : HoldSet) (n : Node) : (setHolds h n).inputs = n.inputs := by unfold setHolds; split <;> simp
@[simp] theorem setHolds_monitor (h : HoldSet) (n : Node) : (setHolds h n).monitor = n.monitor := by unfold setHolds; split <;> simp
@[simp] theorem setHolds_cfg (h : HoldSet) (n : Node) : (setHolds h n).cfg = n.cfg := by unfold setHolds; split <;> simp
@[simp] theorem setHolds_reportCount (h : HoldSet) (n : Node) : (setHolds h n).reportCount = n.reportCount := by unfold setHolds; split <;> simp
@[simp] theorem setHolds_counters (h : HoldSet) (n : Node) : (setHolds h n).counters = n.counters := by unfold setHolds; split <;> simp
@[simp] theorem setHolds_due (h : HoldSet) (n : Node) : (setHolds h n).due = n.due := by unfold setHolds; split <;> simp

/-! ### setPhase -/

@[simp] theorem setPhase_rstnLow (p : Phase) (n : Node) : (setPhase p n).rstnLow = n.rstnLow := by simp [setPhase]
@[simp] theorem setPhase_tx (p : Phase) (n : Node) : (setPhase p n).tx = n.tx := by simp [setPhase]
@[simp] theorem setPhase_rx (p : Phase) (n : Node) : (setPhase p n).rx = n.rx := by simp [setPhase]
@[simp] theorem setPhase_peers (p : Phase) (n : Node) : (setPhase p n).peers = n.peers := by simp [setPhase]
@[simp] theorem setPhase_ring (p : Phase) (n : Node) : (setPhase p n).ring = n.ring := by simp [setPhase]
@[simp] theorem setPhase_tilt (p : Phase) (n : Node) : (setPhase p n).tilt = n.tilt := by simp [setPhase]
@[simp] theorem setPhase_supplyScale (p : Phase) (n : Node) : (setPhase p n).supplyScale = n.supplyScale := by simp [setPhase]
@[simp] theorem setPhase_ringMode (p : Phase) (n : Node) : (setPhase p n).ringMode = n.ringMode := by simp [setPhase]
@[simp] theorem setPhase_faults (p : Phase) (n : Node) : (setPhase p n).faults = n.faults := by simp [setPhase]
@[simp] theorem setPhase_drive (p : Phase) (n : Node) : (setPhase p n).drive = n.drive := by simp [setPhase]
@[simp] theorem setPhase_inputs (p : Phase) (n : Node) : (setPhase p n).inputs = n.inputs := by simp [setPhase]
@[simp] theorem setPhase_monitor (p : Phase) (n : Node) : (setPhase p n).monitor = n.monitor := by simp [setPhase]
@[simp] theorem setPhase_cfg (p : Phase) (n : Node) : (setPhase p n).cfg = n.cfg := by simp [setPhase]
@[simp] theorem setPhase_reportCount (p : Phase) (n : Node) : (setPhase p n).reportCount = n.reportCount := by simp [setPhase]
@[simp] theorem setPhase_counters (p : Phase) (n : Node) : (setPhase p n).counters = n.counters := by simp [setPhase]
@[simp] theorem setPhase_due (p : Phase) (n : Node) : (setPhase p n).due = n.due := by simp [setPhase]

/-! ### dropDue -/

@[simp] theorem dropDue_rstnLow (d : Due) (n : Node) : (dropDue d n).rstnLow = n.rstnLow := rfl
@[simp] theorem dropDue_tx (d : Due) (n : Node) : (dropDue d n).tx = n.tx := rfl
@[simp] theorem dropDue_rx (d : Due) (n : Node) : (dropDue d n).rx = n.rx := rfl
@[simp] theorem dropDue_peers (d : Due) (n : Node) : (dropDue d n).peers = n.peers := rfl
@[simp] theorem dropDue_cue (d : Due) (n : Node) : (dropDue d n).cue = n.cue := rfl
@[simp] theorem dropDue_ring (d : Due) (n : Node) : (dropDue d n).ring = n.ring := rfl
@[simp] theorem dropDue_tilt (d : Due) (n : Node) : (dropDue d n).tilt = n.tilt := rfl
@[simp] theorem dropDue_supplyScale (d : Due) (n : Node) : (dropDue d n).supplyScale = n.supplyScale := rfl
@[simp] theorem dropDue_ringMode (d : Due) (n : Node) : (dropDue d n).ringMode = n.ringMode := rfl
@[simp] theorem dropDue_faults (d : Due) (n : Node) : (dropDue d n).faults = n.faults := rfl
@[simp] theorem dropDue_drive (d : Due) (n : Node) : (dropDue d n).drive = n.drive := rfl
@[simp] theorem dropDue_inputs (d : Due) (n : Node) : (dropDue d n).inputs = n.inputs := rfl
@[simp] theorem dropDue_monitor (d : Due) (n : Node) : (dropDue d n).monitor = n.monitor := rfl
@[simp] theorem dropDue_cfg (d : Due) (n : Node) : (dropDue d n).cfg = n.cfg := rfl
@[simp] theorem dropDue_reportCount (d : Due) (n : Node) : (dropDue d n).reportCount = n.reportCount := rfl
@[simp] theorem dropDue_counters (d : Due) (n : Node) : (dropDue d n).counters = n.counters := rfl
@[simp] theorem dropDue_statusEvent (d : Due) (n : Node) : (dropDue d n).statusEvent = n.statusEvent := rfl

/-! ### setPlanner -/

@[simp] theorem setPlanner_rstnLow (a : Axis) (p : Planner) (n : Node) : (setPlanner n a p).rstnLow = n.rstnLow := by cases a <;> rfl
@[simp] theorem setPlanner_tx (a : Axis) (p : Planner) (n : Node) : (setPlanner n a p).tx = n.tx := by cases a <;> rfl
@[simp] theorem setPlanner_rx (a : Axis) (p : Planner) (n : Node) : (setPlanner n a p).rx = n.rx := by cases a <;> rfl
@[simp] theorem setPlanner_peers (a : Axis) (p : Planner) (n : Node) : (setPlanner n a p).peers = n.peers := by cases a <;> rfl
@[simp] theorem setPlanner_cue (a : Axis) (p : Planner) (n : Node) : (setPlanner n a p).cue = n.cue := by cases a <;> rfl
@[simp] theorem setPlanner_supplyScale (a : Axis) (p : Planner) (n : Node) : (setPlanner n a p).supplyScale = n.supplyScale := by cases a <;> rfl
@[simp] theorem setPlanner_ringMode (a : Axis) (p : Planner) (n : Node) : (setPlanner n a p).ringMode = n.ringMode := by cases a <;> rfl
@[simp] theorem setPlanner_faults (a : Axis) (p : Planner) (n : Node) : (setPlanner n a p).faults = n.faults := by cases a <;> rfl
@[simp] theorem setPlanner_drive (a : Axis) (p : Planner) (n : Node) : (setPlanner n a p).drive = n.drive := by cases a <;> rfl
@[simp] theorem setPlanner_inputs (a : Axis) (p : Planner) (n : Node) : (setPlanner n a p).inputs = n.inputs := by cases a <;> rfl
@[simp] theorem setPlanner_monitor (a : Axis) (p : Planner) (n : Node) : (setPlanner n a p).monitor = n.monitor := by cases a <;> rfl
@[simp] theorem setPlanner_cfg (a : Axis) (p : Planner) (n : Node) : (setPlanner n a p).cfg = n.cfg := by cases a <;> rfl
@[simp] theorem setPlanner_reportCount (a : Axis) (p : Planner) (n : Node) : (setPlanner n a p).reportCount = n.reportCount := by cases a <;> rfl
@[simp] theorem setPlanner_counters (a : Axis) (p : Planner) (n : Node) : (setPlanner n a p).counters = n.counters := by cases a <;> rfl
@[simp] theorem setPlanner_due (a : Axis) (p : Planner) (n : Node) : (setPlanner n a p).due = n.due := by cases a <;> rfl
@[simp] theorem setPlanner_statusEvent (a : Axis) (p : Planner) (n : Node) : (setPlanner n a p).statusEvent = n.statusEvent := by cases a <;> rfl

/-! ### setAxisDrive -/

@[simp] theorem setAxisDrive_rstnLow (a : Axis) (d : AxisDrive) (n : Node) : (setAxisDrive n a d).rstnLow = n.rstnLow := by cases a <;> rfl
@[simp] theorem setAxisDrive_tx (a : Axis) (d : AxisDrive) (n : Node) : (setAxisDrive n a d).tx = n.tx := by cases a <;> rfl
@[simp] theorem setAxisDrive_rx (a : Axis) (d : AxisDrive) (n : Node) : (setAxisDrive n a d).rx = n.rx := by cases a <;> rfl
@[simp] theorem setAxisDrive_peers (a : Axis) (d : AxisDrive) (n : Node) : (setAxisDrive n a d).peers = n.peers := by cases a <;> rfl
@[simp] theorem setAxisDrive_cue (a : Axis) (d : AxisDrive) (n : Node) : (setAxisDrive n a d).cue = n.cue := by cases a <;> rfl
@[simp] theorem setAxisDrive_ring (a : Axis) (d : AxisDrive) (n : Node) : (setAxisDrive n a d).ring = n.ring := by cases a <;> rfl
@[simp] theorem setAxisDrive_tilt (a : Axis) (d : AxisDrive) (n : Node) : (setAxisDrive n a d).tilt = n.tilt := by cases a <;> rfl
@[simp] theorem setAxisDrive_supplyScale (a : Axis) (d : AxisDrive) (n : Node) : (setAxisDrive n a d).supplyScale = n.supplyScale := by cases a <;> rfl
@[simp] theorem setAxisDrive_ringMode (a : Axis) (d : AxisDrive) (n : Node) : (setAxisDrive n a d).ringMode = n.ringMode := by cases a <;> rfl
@[simp] theorem setAxisDrive_faults (a : Axis) (d : AxisDrive) (n : Node) : (setAxisDrive n a d).faults = n.faults := by cases a <;> rfl
@[simp] theorem setAxisDrive_inputs (a : Axis) (d : AxisDrive) (n : Node) : (setAxisDrive n a d).inputs = n.inputs := by cases a <;> rfl
@[simp] theorem setAxisDrive_monitor (a : Axis) (d : AxisDrive) (n : Node) : (setAxisDrive n a d).monitor = n.monitor := by cases a <;> rfl
@[simp] theorem setAxisDrive_cfg (a : Axis) (d : AxisDrive) (n : Node) : (setAxisDrive n a d).cfg = n.cfg := by cases a <;> rfl
@[simp] theorem setAxisDrive_reportCount (a : Axis) (d : AxisDrive) (n : Node) : (setAxisDrive n a d).reportCount = n.reportCount := by cases a <;> rfl
@[simp] theorem setAxisDrive_counters (a : Axis) (d : AxisDrive) (n : Node) : (setAxisDrive n a d).counters = n.counters := by cases a <;> rfl
@[simp] theorem setAxisDrive_due (a : Axis) (d : AxisDrive) (n : Node) : (setAxisDrive n a d).due = n.due := by cases a <;> rfl
@[simp] theorem setAxisDrive_statusEvent (a : Axis) (d : AxisDrive) (n : Node) : (setAxisDrive n a d).statusEvent = n.statusEvent := by cases a <;> rfl

/-! ### setRelease -/

@[simp] theorem setRelease_rstnLow (a : Axis) (r : Option Release) (n : Node) : (setRelease n a r).rstnLow = n.rstnLow := by cases a <;> rfl
@[simp] theorem setRelease_tx (a : Axis) (r : Option Release) (n : Node) : (setRelease n a r).tx = n.tx := by cases a <;> rfl
@[simp] theorem setRelease_rx (a : Axis) (r : Option Release) (n : Node) : (setRelease n a r).rx = n.rx := by cases a <;> rfl
@[simp] theorem setRelease_peers (a : Axis) (r : Option Release) (n : Node) : (setRelease n a r).peers = n.peers := by cases a <;> rfl
@[simp] theorem setRelease_ring (a : Axis) (r : Option Release) (n : Node) : (setRelease n a r).ring = n.ring := by cases a <;> rfl
@[simp] theorem setRelease_tilt (a : Axis) (r : Option Release) (n : Node) : (setRelease n a r).tilt = n.tilt := by cases a <;> rfl
@[simp] theorem setRelease_supplyScale (a : Axis) (r : Option Release) (n : Node) : (setRelease n a r).supplyScale = n.supplyScale := by cases a <;> rfl
@[simp] theorem setRelease_ringMode (a : Axis) (r : Option Release) (n : Node) : (setRelease n a r).ringMode = n.ringMode := by cases a <;> rfl
@[simp] theorem setRelease_faults (a : Axis) (r : Option Release) (n : Node) : (setRelease n a r).faults = n.faults := by cases a <;> rfl
@[simp] theorem setRelease_drive (a : Axis) (r : Option Release) (n : Node) : (setRelease n a r).drive = n.drive := by cases a <;> rfl
@[simp] theorem setRelease_inputs (a : Axis) (r : Option Release) (n : Node) : (setRelease n a r).inputs = n.inputs := by cases a <;> rfl
@[simp] theorem setRelease_monitor (a : Axis) (r : Option Release) (n : Node) : (setRelease n a r).monitor = n.monitor := by cases a <;> rfl
@[simp] theorem setRelease_cfg (a : Axis) (r : Option Release) (n : Node) : (setRelease n a r).cfg = n.cfg := by cases a <;> rfl
@[simp] theorem setRelease_reportCount (a : Axis) (r : Option Release) (n : Node) : (setRelease n a r).reportCount = n.reportCount := by cases a <;> rfl
@[simp] theorem setRelease_counters (a : Axis) (r : Option Release) (n : Node) : (setRelease n a r).counters = n.counters := by cases a <;> rfl
@[simp] theorem setRelease_due (a : Axis) (r : Option Release) (n : Node) : (setRelease n a r).due = n.due := by cases a <;> rfl
@[simp] theorem setRelease_statusEvent (a : Axis) (r : Option Release) (n : Node) : (setRelease n a r).statusEvent = n.statusEvent := by cases a <;> rfl

/-! ### setSlot -/

@[simp] theorem setSlot_rstnLow (k : SlotKind) (x : Slot) (n : Node) : (setSlot n k x).rstnLow = n.rstnLow := by cases k <;> rfl
@[simp] theorem setSlot_rx (k : SlotKind) (x : Slot) (n : Node) : (setSlot n k x).rx = n.rx := by cases k <;> rfl
@[simp] theorem setSlot_peers (k : SlotKind) (x : Slot) (n : Node) : (setSlot n k x).peers = n.peers := by cases k <;> rfl
@[simp] theorem setSlot_cue (k : SlotKind) (x : Slot) (n : Node) : (setSlot n k x).cue = n.cue := by cases k <;> rfl
@[simp] theorem setSlot_ring (k : SlotKind) (x : Slot) (n : Node) : (setSlot n k x).ring = n.ring := by cases k <;> rfl
@[simp] theorem setSlot_tilt (k : SlotKind) (x : Slot) (n : Node) : (setSlot n k x).tilt = n.tilt := by cases k <;> rfl
@[simp] theorem setSlot_supplyScale (k : SlotKind) (x : Slot) (n : Node) : (setSlot n k x).supplyScale = n.supplyScale := by cases k <;> rfl
@[simp] theorem setSlot_ringMode (k : SlotKind) (x : Slot) (n : Node) : (setSlot n k x).ringMode = n.ringMode := by cases k <;> rfl
@[simp] theorem setSlot_faults (k : SlotKind) (x : Slot) (n : Node) : (setSlot n k x).faults = n.faults := by cases k <;> rfl
@[simp] theorem setSlot_drive (k : SlotKind) (x : Slot) (n : Node) : (setSlot n k x).drive = n.drive := by cases k <;> rfl
@[simp] theorem setSlot_inputs (k : SlotKind) (x : Slot) (n : Node) : (setSlot n k x).inputs = n.inputs := by cases k <;> rfl
@[simp] theorem setSlot_monitor (k : SlotKind) (x : Slot) (n : Node) : (setSlot n k x).monitor = n.monitor := by cases k <;> rfl
@[simp] theorem setSlot_cfg (k : SlotKind) (x : Slot) (n : Node) : (setSlot n k x).cfg = n.cfg := by cases k <;> rfl
@[simp] theorem setSlot_reportCount (k : SlotKind) (x : Slot) (n : Node) : (setSlot n k x).reportCount = n.reportCount := by cases k <;> rfl
@[simp] theorem setSlot_counters (k : SlotKind) (x : Slot) (n : Node) : (setSlot n k x).counters = n.counters := by cases k <;> rfl
@[simp] theorem setSlot_due (k : SlotKind) (x : Slot) (n : Node) : (setSlot n k x).due = n.due := by cases k <;> rfl
@[simp] theorem setSlot_statusEvent (k : SlotKind) (x : Slot) (n : Node) : (setSlot n k x).statusEvent = n.statusEvent := by cases k <;> rfl

/-! ### fillStatus -/

@[simp] theorem fillStatus_rstnLow (f : List Byte) (n : Node) : (fillStatus f n).rstnLow = n.rstnLow := by unfold fillStatus; dsimp only; split <;> rfl
@[simp] theorem fillStatus_rx (f : List Byte) (n : Node) : (fillStatus f n).rx = n.rx := by unfold fillStatus; dsimp only; split <;> rfl
@[simp] theorem fillStatus_peers (f : List Byte) (n : Node) : (fillStatus f n).peers = n.peers := by unfold fillStatus; dsimp only; split <;> rfl
@[simp] theorem fillStatus_cue (f : List Byte) (n : Node) : (fillStatus f n).cue = n.cue := by unfold fillStatus; dsimp only; split <;> rfl
@[simp] theorem fillStatus_ring (f : List Byte) (n : Node) : (fillStatus f n).ring = n.ring := by unfold fillStatus; dsimp only; split <;> rfl
@[simp] theorem fillStatus_tilt (f : List Byte) (n : Node) : (fillStatus f n).tilt = n.tilt := by unfold fillStatus; dsimp only; split <;> rfl
@[simp] theorem fillStatus_supplyScale (f : List Byte) (n : Node) : (fillStatus f n).supplyScale = n.supplyScale := by unfold fillStatus; dsimp only; split <;> rfl
@[simp] theorem fillStatus_ringMode (f : List Byte) (n : Node) : (fillStatus f n).ringMode = n.ringMode := by unfold fillStatus; dsimp only; split <;> rfl
@[simp] theorem fillStatus_faults (f : List Byte) (n : Node) : (fillStatus f n).faults = n.faults := by unfold fillStatus; dsimp only; split <;> rfl
@[simp] theorem fillStatus_drive (f : List Byte) (n : Node) : (fillStatus f n).drive = n.drive := by unfold fillStatus; dsimp only; split <;> rfl
@[simp] theorem fillStatus_inputs (f : List Byte) (n : Node) : (fillStatus f n).inputs = n.inputs := by unfold fillStatus; dsimp only; split <;> rfl
@[simp] theorem fillStatus_monitor (f : List Byte) (n : Node) : (fillStatus f n).monitor = n.monitor := by unfold fillStatus; dsimp only; split <;> rfl
@[simp] theorem fillStatus_cfg (f : List Byte) (n : Node) : (fillStatus f n).cfg = n.cfg := by unfold fillStatus; dsimp only; split <;> rfl
@[simp] theorem fillStatus_reportCount (f : List Byte) (n : Node) : (fillStatus f n).reportCount = n.reportCount := by unfold fillStatus; dsimp only; split <;> rfl
@[simp] theorem fillStatus_due (f : List Byte) (n : Node) : (fillStatus f n).due = n.due := by unfold fillStatus; dsimp only; split <;> rfl
@[simp] theorem fillStatus_statusEvent (f : List Byte) (n : Node) : (fillStatus f n).statusEvent = n.statusEvent := by unfold fillStatus; dsimp only; split <;> rfl

/-! ### requestHalt -/

@[simp] theorem requestHalt_rstnLow (k : FaultKind) (n : Node) : (requestHalt k n).rstnLow = n.rstnLow := by unfold requestHalt; split <;> rfl
@[simp] theorem requestHalt_rx (k : FaultKind) (n : Node) : (requestHalt k n).rx = n.rx := by unfold requestHalt; split <;> rfl
@[simp] theorem requestHalt_peers (k : FaultKind) (n : Node) : (requestHalt k n).peers = n.peers := by unfold requestHalt; split <;> rfl
@[simp] theorem requestHalt_ring (k : FaultKind) (n : Node) : (requestHalt k n).ring = n.ring := by unfold requestHalt; split <;> rfl
@[simp] theorem requestHalt_tilt (k : FaultKind) (n : Node) : (requestHalt k n).tilt = n.tilt := by unfold requestHalt; split <;> rfl
@[simp] theorem requestHalt_supplyScale (k : FaultKind) (n : Node) : (requestHalt k n).supplyScale = n.supplyScale := by unfold requestHalt; split <;> rfl
@[simp] theorem requestHalt_ringMode (k : FaultKind) (n : Node) : (requestHalt k n).ringMode = n.ringMode := by unfold requestHalt; split <;> rfl
@[simp] theorem requestHalt_faults (k : FaultKind) (n : Node) : (requestHalt k n).faults = n.faults := by unfold requestHalt; split <;> rfl
@[simp] theorem requestHalt_drive (k : FaultKind) (n : Node) : (requestHalt k n).drive = n.drive := by unfold requestHalt; split <;> rfl
@[simp] theorem requestHalt_inputs (k : FaultKind) (n : Node) : (requestHalt k n).inputs = n.inputs := by unfold requestHalt; split <;> rfl
@[simp] theorem requestHalt_monitor (k : FaultKind) (n : Node) : (requestHalt k n).monitor = n.monitor := by unfold requestHalt; split <;> rfl
@[simp] theorem requestHalt_cfg (k : FaultKind) (n : Node) : (requestHalt k n).cfg = n.cfg := by unfold requestHalt; split <;> rfl
@[simp] theorem requestHalt_reportCount (k : FaultKind) (n : Node) : (requestHalt k n).reportCount = n.reportCount := by unfold requestHalt; split <;> rfl
@[simp] theorem requestHalt_due (k : FaultKind) (n : Node) : (requestHalt k n).due = n.due := by unfold requestHalt; split <;> rfl
@[simp] theorem requestHalt_statusEvent (k : FaultKind) (n : Node) : (requestHalt k n).statusEvent = n.statusEvent := by unfold requestHalt; split <;> rfl

/-! ### pushRetired -/

@[simp] theorem pushRetired_rstnLow (id : CueId) (e : CueEnd) (n : Node) : (pushRetired id e n).rstnLow = n.rstnLow := rfl
@[simp] theorem pushRetired_tx (id : CueId) (e : CueEnd) (n : Node) : (pushRetired id e n).tx = n.tx := rfl
@[simp] theorem pushRetired_rx (id : CueId) (e : CueEnd) (n : Node) : (pushRetired id e n).rx = n.rx := rfl
@[simp] theorem pushRetired_peers (id : CueId) (e : CueEnd) (n : Node) : (pushRetired id e n).peers = n.peers := rfl
@[simp] theorem pushRetired_ring (id : CueId) (e : CueEnd) (n : Node) : (pushRetired id e n).ring = n.ring := rfl
@[simp] theorem pushRetired_tilt (id : CueId) (e : CueEnd) (n : Node) : (pushRetired id e n).tilt = n.tilt := rfl
@[simp] theorem pushRetired_supplyScale (id : CueId) (e : CueEnd) (n : Node) : (pushRetired id e n).supplyScale = n.supplyScale := rfl
@[simp] theorem pushRetired_ringMode (id : CueId) (e : CueEnd) (n : Node) : (pushRetired id e n).ringMode = n.ringMode := rfl
@[simp] theorem pushRetired_faults (id : CueId) (e : CueEnd) (n : Node) : (pushRetired id e n).faults = n.faults := rfl
@[simp] theorem pushRetired_drive (id : CueId) (e : CueEnd) (n : Node) : (pushRetired id e n).drive = n.drive := rfl
@[simp] theorem pushRetired_inputs (id : CueId) (e : CueEnd) (n : Node) : (pushRetired id e n).inputs = n.inputs := rfl
@[simp] theorem pushRetired_monitor (id : CueId) (e : CueEnd) (n : Node) : (pushRetired id e n).monitor = n.monitor := rfl
@[simp] theorem pushRetired_cfg (id : CueId) (e : CueEnd) (n : Node) : (pushRetired id e n).cfg = n.cfg := rfl
@[simp] theorem pushRetired_reportCount (id : CueId) (e : CueEnd) (n : Node) : (pushRetired id e n).reportCount = n.reportCount := rfl
@[simp] theorem pushRetired_due (id : CueId) (e : CueEnd) (n : Node) : (pushRetired id e n).due = n.due := rfl
@[simp] theorem pushRetired_statusEvent (id : CueId) (e : CueEnd) (n : Node) : (pushRetired id e n).statusEvent = n.statusEvent := rfl

/-! ### retireHead -/

@[simp] theorem retireHead_rstnLow (e : CueEnd) (n : Node) : (retireHead e n).rstnLow = n.rstnLow := by unfold retireHead; split <;> simp
@[simp] theorem retireHead_tx (e : CueEnd) (n : Node) : (retireHead e n).tx = n.tx := by unfold retireHead; split <;> simp
@[simp] theorem retireHead_rx (e : CueEnd) (n : Node) : (retireHead e n).rx = n.rx := by unfold retireHead; split <;> simp
@[simp] theorem retireHead_peers (e : CueEnd) (n : Node) : (retireHead e n).peers = n.peers := by unfold retireHead; split <;> simp
@[simp] theorem retireHead_ring (e : CueEnd) (n : Node) : (retireHead e n).ring = n.ring := by unfold retireHead; split <;> simp
@[simp] theorem retireHead_tilt (e : CueEnd) (n : Node) : (retireHead e n).tilt = n.tilt := by unfold retireHead; split <;> simp
@[simp] theorem retireHead_supplyScale (e : CueEnd) (n : Node) : (retireHead e n).supplyScale = n.supplyScale := by unfold retireHead; split <;> simp
@[simp] theorem retireHead_ringMode (e : CueEnd) (n : Node) : (retireHead e n).ringMode = n.ringMode := by unfold retireHead; split <;> simp
@[simp] theorem retireHead_faults (e : CueEnd) (n : Node) : (retireHead e n).faults = n.faults := by unfold retireHead; split <;> simp
@[simp] theorem retireHead_drive (e : CueEnd) (n : Node) : (retireHead e n).drive = n.drive := by unfold retireHead; split <;> simp
@[simp] theorem retireHead_inputs (e : CueEnd) (n : Node) : (retireHead e n).inputs = n.inputs := by unfold retireHead; split <;> simp
@[simp] theorem retireHead_monitor (e : CueEnd) (n : Node) : (retireHead e n).monitor = n.monitor := by unfold retireHead; split <;> simp
@[simp] theorem retireHead_cfg (e : CueEnd) (n : Node) : (retireHead e n).cfg = n.cfg := by unfold retireHead; split <;> simp
@[simp] theorem retireHead_reportCount (e : CueEnd) (n : Node) : (retireHead e n).reportCount = n.reportCount := by unfold retireHead; split <;> simp
@[simp] theorem retireHead_due (e : CueEnd) (n : Node) : (retireHead e n).due = n.due := by unfold retireHead; split <;> simp
@[simp] theorem retireHead_statusEvent (e : CueEnd) (n : Node) : (retireHead e n).statusEvent = n.statusEvent := by unfold retireHead; split <;> simp

/-! ### failHead -/

@[simp] theorem failHead_rstnLow (r : CueReason) (n : Node) : (failHead r n).rstnLow = n.rstnLow := by unfold failHead; dsimp only; split <;> simp
@[simp] theorem failHead_tx (r : CueReason) (n : Node) : (failHead r n).tx = n.tx := by unfold failHead; dsimp only; split <;> simp
@[simp] theorem failHead_rx (r : CueReason) (n : Node) : (failHead r n).rx = n.rx := by unfold failHead; dsimp only; split <;> simp
@[simp] theorem failHead_peers (r : CueReason) (n : Node) : (failHead r n).peers = n.peers := by unfold failHead; dsimp only; split <;> simp
@[simp] theorem failHead_ring (r : CueReason) (n : Node) : (failHead r n).ring = n.ring := by unfold failHead; dsimp only; split <;> simp
@[simp] theorem failHead_tilt (r : CueReason) (n : Node) : (failHead r n).tilt = n.tilt := by unfold failHead; dsimp only; split <;> simp
@[simp] theorem failHead_supplyScale (r : CueReason) (n : Node) : (failHead r n).supplyScale = n.supplyScale := by unfold failHead; dsimp only; split <;> simp
@[simp] theorem failHead_ringMode (r : CueReason) (n : Node) : (failHead r n).ringMode = n.ringMode := by unfold failHead; dsimp only; split <;> simp
@[simp] theorem failHead_faults (r : CueReason) (n : Node) : (failHead r n).faults = n.faults := by unfold failHead; dsimp only; split <;> simp
@[simp] theorem failHead_drive (r : CueReason) (n : Node) : (failHead r n).drive = n.drive := by unfold failHead; dsimp only; split <;> simp
@[simp] theorem failHead_inputs (r : CueReason) (n : Node) : (failHead r n).inputs = n.inputs := by unfold failHead; dsimp only; split <;> simp
@[simp] theorem failHead_monitor (r : CueReason) (n : Node) : (failHead r n).monitor = n.monitor := by unfold failHead; dsimp only; split <;> simp
@[simp] theorem failHead_cfg (r : CueReason) (n : Node) : (failHead r n).cfg = n.cfg := by unfold failHead; dsimp only; split <;> simp
@[simp] theorem failHead_reportCount (r : CueReason) (n : Node) : (failHead r n).reportCount = n.reportCount := by unfold failHead; dsimp only; split <;> simp
@[simp] theorem failHead_due (r : CueReason) (n : Node) : (failHead r n).due = n.due := by unfold failHead; dsimp only; split <;> simp

/-! ### markHead -/

@[simp] theorem markHead_rstnLow (b : Bool) (n : Node) : (markHead b n).rstnLow = n.rstnLow := by unfold markHead; split <;> rfl
@[simp] theorem markHead_tx (b : Bool) (n : Node) : (markHead b n).tx = n.tx := by unfold markHead; split <;> rfl
@[simp] theorem markHead_rx (b : Bool) (n : Node) : (markHead b n).rx = n.rx := by unfold markHead; split <;> rfl
@[simp] theorem markHead_peers (b : Bool) (n : Node) : (markHead b n).peers = n.peers := by unfold markHead; split <;> rfl
@[simp] theorem markHead_ring (b : Bool) (n : Node) : (markHead b n).ring = n.ring := by unfold markHead; split <;> rfl
@[simp] theorem markHead_tilt (b : Bool) (n : Node) : (markHead b n).tilt = n.tilt := by unfold markHead; split <;> rfl
@[simp] theorem markHead_supplyScale (b : Bool) (n : Node) : (markHead b n).supplyScale = n.supplyScale := by unfold markHead; split <;> rfl
@[simp] theorem markHead_ringMode (b : Bool) (n : Node) : (markHead b n).ringMode = n.ringMode := by unfold markHead; split <;> rfl
@[simp] theorem markHead_faults (b : Bool) (n : Node) : (markHead b n).faults = n.faults := by unfold markHead; split <;> rfl
@[simp] theorem markHead_drive (b : Bool) (n : Node) : (markHead b n).drive = n.drive := by unfold markHead; split <;> rfl
@[simp] theorem markHead_inputs (b : Bool) (n : Node) : (markHead b n).inputs = n.inputs := by unfold markHead; split <;> rfl
@[simp] theorem markHead_monitor (b : Bool) (n : Node) : (markHead b n).monitor = n.monitor := by unfold markHead; split <;> rfl
@[simp] theorem markHead_cfg (b : Bool) (n : Node) : (markHead b n).cfg = n.cfg := by unfold markHead; split <;> rfl
@[simp] theorem markHead_reportCount (b : Bool) (n : Node) : (markHead b n).reportCount = n.reportCount := by unfold markHead; split <;> rfl
@[simp] theorem markHead_counters (b : Bool) (n : Node) : (markHead b n).counters = n.counters := by unfold markHead; split <;> rfl
@[simp] theorem markHead_due (b : Bool) (n : Node) : (markHead b n).due = n.due := by unfold markHead; split <;> rfl
@[simp] theorem markHead_statusEvent (b : Bool) (n : Node) : (markHead b n).statusEvent = n.statusEvent := by unfold markHead; split <;> rfl

/-! ### enterHalted -/

@[simp] theorem enterHalted_rstnLow (n : Node) : (enterHalted n).rstnLow = n.rstnLow := by unfold enterHalted; dsimp only; split <;> simp
@[simp] theorem enterHalted_tx (n : Node) : (enterHalted n).tx = n.tx := by unfold enterHalted; dsimp only; split <;> simp
@[simp] theorem enterHalted_rx (n : Node) : (enterHalted n).rx = n.rx := by unfold enterHalted; dsimp only; split <;> simp
@[simp] theorem enterHalted_peers (n : Node) : (enterHalted n).peers = n.peers := by unfold enterHalted; dsimp only; split <;> simp
@[simp] theorem enterHalted_ring (n : Node) : (enterHalted n).ring = n.ring := by unfold enterHalted; dsimp only; split <;> simp
@[simp] theorem enterHalted_tilt (n : Node) : (enterHalted n).tilt = n.tilt := by unfold enterHalted; dsimp only; split <;> simp
@[simp] theorem enterHalted_supplyScale (n : Node) : (enterHalted n).supplyScale = n.supplyScale := by unfold enterHalted; dsimp only; split <;> simp
@[simp] theorem enterHalted_ringMode (n : Node) : (enterHalted n).ringMode = n.ringMode := by unfold enterHalted; dsimp only; split <;> simp
@[simp] theorem enterHalted_faults (n : Node) : (enterHalted n).faults = n.faults := by unfold enterHalted; dsimp only; split <;> simp
@[simp] theorem enterHalted_drive (n : Node) : (enterHalted n).drive = n.drive := by unfold enterHalted; dsimp only; split <;> simp
@[simp] theorem enterHalted_inputs (n : Node) : (enterHalted n).inputs = n.inputs := by unfold enterHalted; dsimp only; split <;> simp
@[simp] theorem enterHalted_monitor (n : Node) : (enterHalted n).monitor = n.monitor := by unfold enterHalted; dsimp only; split <;> simp
@[simp] theorem enterHalted_cfg (n : Node) : (enterHalted n).cfg = n.cfg := by unfold enterHalted; dsimp only; split <;> simp
@[simp] theorem enterHalted_reportCount (n : Node) : (enterHalted n).reportCount = n.reportCount := by unfold enterHalted; dsimp only; split <;> simp
@[simp] theorem enterHalted_due (n : Node) : (enterHalted n).due = n.due := by unfold enterHalted; dsimp only; split <;> simp

/-! ### writeHaltRecord -/

@[simp] theorem writeHaltRecord_rstnLow (o : Nat) (r : HaltReason) (n : Node) : (writeHaltRecord o r n).rstnLow = n.rstnLow := rfl
@[simp] theorem writeHaltRecord_tx (o : Nat) (r : HaltReason) (n : Node) : (writeHaltRecord o r n).tx = n.tx := rfl
@[simp] theorem writeHaltRecord_rx (o : Nat) (r : HaltReason) (n : Node) : (writeHaltRecord o r n).rx = n.rx := rfl
@[simp] theorem writeHaltRecord_peers (o : Nat) (r : HaltReason) (n : Node) : (writeHaltRecord o r n).peers = n.peers := rfl
@[simp] theorem writeHaltRecord_ring (o : Nat) (r : HaltReason) (n : Node) : (writeHaltRecord o r n).ring = n.ring := rfl
@[simp] theorem writeHaltRecord_tilt (o : Nat) (r : HaltReason) (n : Node) : (writeHaltRecord o r n).tilt = n.tilt := rfl
@[simp] theorem writeHaltRecord_supplyScale (o : Nat) (r : HaltReason) (n : Node) : (writeHaltRecord o r n).supplyScale = n.supplyScale := rfl
@[simp] theorem writeHaltRecord_ringMode (o : Nat) (r : HaltReason) (n : Node) : (writeHaltRecord o r n).ringMode = n.ringMode := rfl
@[simp] theorem writeHaltRecord_faults (o : Nat) (r : HaltReason) (n : Node) : (writeHaltRecord o r n).faults = n.faults := rfl
@[simp] theorem writeHaltRecord_drive (o : Nat) (r : HaltReason) (n : Node) : (writeHaltRecord o r n).drive = n.drive := rfl
@[simp] theorem writeHaltRecord_inputs (o : Nat) (r : HaltReason) (n : Node) : (writeHaltRecord o r n).inputs = n.inputs := rfl
@[simp] theorem writeHaltRecord_monitor (o : Nat) (r : HaltReason) (n : Node) : (writeHaltRecord o r n).monitor = n.monitor := rfl
@[simp] theorem writeHaltRecord_cfg (o : Nat) (r : HaltReason) (n : Node) : (writeHaltRecord o r n).cfg = n.cfg := rfl
@[simp] theorem writeHaltRecord_reportCount (o : Nat) (r : HaltReason) (n : Node) : (writeHaltRecord o r n).reportCount = n.reportCount := rfl
@[simp] theorem writeHaltRecord_counters (o : Nat) (r : HaltReason) (n : Node) : (writeHaltRecord o r n).counters = n.counters := rfl
@[simp] theorem writeHaltRecord_due (o : Nat) (r : HaltReason) (n : Node) : (writeHaltRecord o r n).due = n.due := rfl
@[simp] theorem writeHaltRecord_statusEvent (o : Nat) (r : HaltReason) (n : Node) : (writeHaltRecord o r n).statusEvent = n.statusEvent := rfl

/-! ### raise -/

@[simp] theorem raise_rstnLow (k : FaultKind) (n : Node) : (raise k n).rstnLow = n.rstnLow := by unfold raise; dsimp only; (repeat' split) <;> simp
@[simp] theorem raise_rx (k : FaultKind) (n : Node) : (raise k n).rx = n.rx := by unfold raise; dsimp only; (repeat' split) <;> simp
@[simp] theorem raise_peers (k : FaultKind) (n : Node) : (raise k n).peers = n.peers := by unfold raise; dsimp only; (repeat' split) <;> simp
@[simp] theorem raise_supplyScale (k : FaultKind) (n : Node) : (raise k n).supplyScale = n.supplyScale := by unfold raise; dsimp only; (repeat' split) <;> simp
@[simp] theorem raise_ringMode (k : FaultKind) (n : Node) : (raise k n).ringMode = n.ringMode := by unfold raise; dsimp only; (repeat' split) <;> simp
@[simp] theorem raise_drive (k : FaultKind) (n : Node) : (raise k n).drive = n.drive := by unfold raise; dsimp only; (repeat' split) <;> simp
@[simp] theorem raise_inputs (k : FaultKind) (n : Node) : (raise k n).inputs = n.inputs := by unfold raise; dsimp only; (repeat' split) <;> simp
@[simp] theorem raise_monitor (k : FaultKind) (n : Node) : (raise k n).monitor = n.monitor := by unfold raise; dsimp only; (repeat' split) <;> simp
@[simp] theorem raise_cfg (k : FaultKind) (n : Node) : (raise k n).cfg = n.cfg := by unfold raise; dsimp only; (repeat' split) <;> simp
@[simp] theorem raise_reportCount (k : FaultKind) (n : Node) : (raise k n).reportCount = n.reportCount := by unfold raise; dsimp only; (repeat' split) <;> simp
@[simp] theorem raise_due (k : FaultKind) (n : Node) : (raise k n).due = n.due := by unfold raise; dsimp only; (repeat' split) <;> simp

/-! ### raiseIf -/

@[simp] theorem raiseIf_rstnLow (b : Bool) (k : FaultKind) (n : Node) : (raiseIf b k n).rstnLow = n.rstnLow := by unfold raiseIf; split <;> simp
@[simp] theorem raiseIf_rx (b : Bool) (k : FaultKind) (n : Node) : (raiseIf b k n).rx = n.rx := by unfold raiseIf; split <;> simp
@[simp] theorem raiseIf_peers (b : Bool) (k : FaultKind) (n : Node) : (raiseIf b k n).peers = n.peers := by unfold raiseIf; split <;> simp
@[simp] theorem raiseIf_supplyScale (b : Bool) (k : FaultKind) (n : Node) : (raiseIf b k n).supplyScale = n.supplyScale := by unfold raiseIf; split <;> simp
@[simp] theorem raiseIf_ringMode (b : Bool) (k : FaultKind) (n : Node) : (raiseIf b k n).ringMode = n.ringMode := by unfold raiseIf; split <;> simp
@[simp] theorem raiseIf_drive (b : Bool) (k : FaultKind) (n : Node) : (raiseIf b k n).drive = n.drive := by unfold raiseIf; split <;> simp
@[simp] theorem raiseIf_inputs (b : Bool) (k : FaultKind) (n : Node) : (raiseIf b k n).inputs = n.inputs := by unfold raiseIf; split <;> simp
@[simp] theorem raiseIf_monitor (b : Bool) (k : FaultKind) (n : Node) : (raiseIf b k n).monitor = n.monitor := by unfold raiseIf; split <;> simp
@[simp] theorem raiseIf_cfg (b : Bool) (k : FaultKind) (n : Node) : (raiseIf b k n).cfg = n.cfg := by unfold raiseIf; split <;> simp
@[simp] theorem raiseIf_reportCount (b : Bool) (k : FaultKind) (n : Node) : (raiseIf b k n).reportCount = n.reportCount := by unfold raiseIf; split <;> simp
@[simp] theorem raiseIf_due (b : Bool) (k : FaultKind) (n : Node) : (raiseIf b k n).due = n.due := by unfold raiseIf; split <;> simp

/-! ### superviseTow -/

@[simp] theorem superviseTow_rstnLow (n : Node) : (superviseTow n).rstnLow = n.rstnLow := by simp [superviseTow]
@[simp] theorem superviseTow_rx (n : Node) : (superviseTow n).rx = n.rx := by simp [superviseTow]
@[simp] theorem superviseTow_peers (n : Node) : (superviseTow n).peers = n.peers := by simp [superviseTow]
@[simp] theorem superviseTow_supplyScale (n : Node) : (superviseTow n).supplyScale = n.supplyScale := by simp [superviseTow]
@[simp] theorem superviseTow_ringMode (n : Node) : (superviseTow n).ringMode = n.ringMode := by simp [superviseTow]
@[simp] theorem superviseTow_drive (n : Node) : (superviseTow n).drive = n.drive := by simp [superviseTow]
@[simp] theorem superviseTow_inputs (n : Node) : (superviseTow n).inputs = n.inputs := by simp [superviseTow]
@[simp] theorem superviseTow_monitor (n : Node) : (superviseTow n).monitor = n.monitor := by simp [superviseTow]
@[simp] theorem superviseTow_cfg (n : Node) : (superviseTow n).cfg = n.cfg := by simp [superviseTow]
@[simp] theorem superviseTow_reportCount (n : Node) : (superviseTow n).reportCount = n.reportCount := by simp [superviseTow]
@[simp] theorem superviseTow_due (n : Node) : (superviseTow n).due = n.due := by simp [superviseTow]

/-! ### reportReleased -/

@[simp] theorem reportReleased_rstnLow (a : Axis) (n : Node) : (reportReleased a n).rstnLow = n.rstnLow := by unfold reportReleased; split <;> simp
@[simp] theorem reportReleased_tx (a : Axis) (n : Node) : (reportReleased a n).tx = n.tx := by unfold reportReleased; split <;> simp
@[simp] theorem reportReleased_rx (a : Axis) (n : Node) : (reportReleased a n).rx = n.rx := by unfold reportReleased; split <;> simp
@[simp] theorem reportReleased_peers (a : Axis) (n : Node) : (reportReleased a n).peers = n.peers := by unfold reportReleased; split <;> simp
@[simp] theorem reportReleased_ring (a : Axis) (n : Node) : (reportReleased a n).ring = n.ring := by unfold reportReleased; split <;> simp
@[simp] theorem reportReleased_tilt (a : Axis) (n : Node) : (reportReleased a n).tilt = n.tilt := by unfold reportReleased; split <;> simp
@[simp] theorem reportReleased_supplyScale (a : Axis) (n : Node) : (reportReleased a n).supplyScale = n.supplyScale := by unfold reportReleased; split <;> simp
@[simp] theorem reportReleased_ringMode (a : Axis) (n : Node) : (reportReleased a n).ringMode = n.ringMode := by unfold reportReleased; split <;> simp
@[simp] theorem reportReleased_faults (a : Axis) (n : Node) : (reportReleased a n).faults = n.faults := by unfold reportReleased; split <;> simp
@[simp] theorem reportReleased_drive (a : Axis) (n : Node) : (reportReleased a n).drive = n.drive := by unfold reportReleased; split <;> simp
@[simp] theorem reportReleased_inputs (a : Axis) (n : Node) : (reportReleased a n).inputs = n.inputs := by unfold reportReleased; split <;> simp
@[simp] theorem reportReleased_monitor (a : Axis) (n : Node) : (reportReleased a n).monitor = n.monitor := by unfold reportReleased; split <;> simp
@[simp] theorem reportReleased_cfg (a : Axis) (n : Node) : (reportReleased a n).cfg = n.cfg := by unfold reportReleased; split <;> simp
@[simp] theorem reportReleased_reportCount (a : Axis) (n : Node) : (reportReleased a n).reportCount = n.reportCount := by unfold reportReleased; split <;> simp
@[simp] theorem reportReleased_counters (a : Axis) (n : Node) : (reportReleased a n).counters = n.counters := by unfold reportReleased; split <;> simp
@[simp] theorem reportReleased_due (a : Axis) (n : Node) : (reportReleased a n).due = n.due := by unfold reportReleased; split <;> simp
@[simp] theorem reportReleased_statusEvent (a : Axis) (n : Node) : (reportReleased a n).statusEvent = n.statusEvent := by unfold reportReleased; split <;> simp

/-! ### brakeAgreed -/

@[simp] theorem brakeAgreed_rstnLow (a : Axis) (n : Node) : (brakeAgreed a n).rstnLow = n.rstnLow := by unfold brakeAgreed; dsimp only; split <;> simp
@[simp] theorem brakeAgreed_tx (a : Axis) (n : Node) : (brakeAgreed a n).tx = n.tx := by unfold brakeAgreed; dsimp only; split <;> simp
@[simp] theorem brakeAgreed_rx (a : Axis) (n : Node) : (brakeAgreed a n).rx = n.rx := by unfold brakeAgreed; dsimp only; split <;> simp
@[simp] theorem brakeAgreed_peers (a : Axis) (n : Node) : (brakeAgreed a n).peers = n.peers := by unfold brakeAgreed; dsimp only; split <;> simp
@[simp] theorem brakeAgreed_ring (a : Axis) (n : Node) : (brakeAgreed a n).ring = n.ring := by unfold brakeAgreed; dsimp only; split <;> simp
@[simp] theorem brakeAgreed_tilt (a : Axis) (n : Node) : (brakeAgreed a n).tilt = n.tilt := by unfold brakeAgreed; dsimp only; split <;> simp
@[simp] theorem brakeAgreed_supplyScale (a : Axis) (n : Node) : (brakeAgreed a n).supplyScale = n.supplyScale := by unfold brakeAgreed; dsimp only; split <;> simp
@[simp] theorem brakeAgreed_ringMode (a : Axis) (n : Node) : (brakeAgreed a n).ringMode = n.ringMode := by unfold brakeAgreed; dsimp only; split <;> simp
@[simp] theorem brakeAgreed_faults (a : Axis) (n : Node) : (brakeAgreed a n).faults = n.faults := by unfold brakeAgreed; dsimp only; split <;> simp
@[simp] theorem brakeAgreed_inputs (a : Axis) (n : Node) : (brakeAgreed a n).inputs = n.inputs := by unfold brakeAgreed; dsimp only; split <;> simp
@[simp] theorem brakeAgreed_monitor (a : Axis) (n : Node) : (brakeAgreed a n).monitor = n.monitor := by unfold brakeAgreed; dsimp only; split <;> simp
@[simp] theorem brakeAgreed_cfg (a : Axis) (n : Node) : (brakeAgreed a n).cfg = n.cfg := by unfold brakeAgreed; dsimp only; split <;> simp
@[simp] theorem brakeAgreed_reportCount (a : Axis) (n : Node) : (brakeAgreed a n).reportCount = n.reportCount := by unfold brakeAgreed; dsimp only; split <;> simp
@[simp] theorem brakeAgreed_counters (a : Axis) (n : Node) : (brakeAgreed a n).counters = n.counters := by unfold brakeAgreed; dsimp only; split <;> simp
@[simp] theorem brakeAgreed_due (a : Axis) (n : Node) : (brakeAgreed a n).due = n.due := by unfold brakeAgreed; dsimp only; split <;> simp
@[simp] theorem brakeAgreed_statusEvent (a : Axis) (n : Node) : (brakeAgreed a n).statusEvent = n.statusEvent := by unfold brakeAgreed; dsimp only; split <;> simp

/-! ### changeBrake -/

@[simp] theorem changeBrake_rstnLow (a : Axis) (n : Node) : (changeBrake a n).rstnLow = n.rstnLow := by unfold changeBrake; dsimp only; (repeat' split) <;> simp
@[simp] theorem changeBrake_tx (a : Axis) (n : Node) : (changeBrake a n).tx = n.tx := by unfold changeBrake; dsimp only; (repeat' split) <;> simp
@[simp] theorem changeBrake_rx (a : Axis) (n : Node) : (changeBrake a n).rx = n.rx := by unfold changeBrake; dsimp only; (repeat' split) <;> simp
@[simp] theorem changeBrake_peers (a : Axis) (n : Node) : (changeBrake a n).peers = n.peers := by unfold changeBrake; dsimp only; (repeat' split) <;> simp
@[simp] theorem changeBrake_ring (a : Axis) (n : Node) : (changeBrake a n).ring = n.ring := by unfold changeBrake; dsimp only; (repeat' split) <;> simp
@[simp] theorem changeBrake_tilt (a : Axis) (n : Node) : (changeBrake a n).tilt = n.tilt := by unfold changeBrake; dsimp only; (repeat' split) <;> simp
@[simp] theorem changeBrake_supplyScale (a : Axis) (n : Node) : (changeBrake a n).supplyScale = n.supplyScale := by unfold changeBrake; dsimp only; (repeat' split) <;> simp
@[simp] theorem changeBrake_ringMode (a : Axis) (n : Node) : (changeBrake a n).ringMode = n.ringMode := by unfold changeBrake; dsimp only; (repeat' split) <;> simp
@[simp] theorem changeBrake_faults (a : Axis) (n : Node) : (changeBrake a n).faults = n.faults := by unfold changeBrake; dsimp only; (repeat' split) <;> simp
@[simp] theorem changeBrake_inputs (a : Axis) (n : Node) : (changeBrake a n).inputs = n.inputs := by unfold changeBrake; dsimp only; (repeat' split) <;> simp
@[simp] theorem changeBrake_monitor (a : Axis) (n : Node) : (changeBrake a n).monitor = n.monitor := by unfold changeBrake; dsimp only; (repeat' split) <;> simp
@[simp] theorem changeBrake_cfg (a : Axis) (n : Node) : (changeBrake a n).cfg = n.cfg := by unfold changeBrake; dsimp only; (repeat' split) <;> simp
@[simp] theorem changeBrake_reportCount (a : Axis) (n : Node) : (changeBrake a n).reportCount = n.reportCount := by unfold changeBrake; dsimp only; (repeat' split) <;> simp
@[simp] theorem changeBrake_counters (a : Axis) (n : Node) : (changeBrake a n).counters = n.counters := by unfold changeBrake; dsimp only; (repeat' split) <;> simp
@[simp] theorem changeBrake_statusEvent (a : Axis) (n : Node) : (changeBrake a n).statusEvent = n.statusEvent := by unfold changeBrake; dsimp only; (repeat' split) <;> simp

/-! ### startAxis -/

@[simp] theorem startAxis_rstnLow (a : Axis) (n : Node) : (startAxis a n).rstnLow = n.rstnLow := by unfold startAxis; split <;> simp
@[simp] theorem startAxis_tx (a : Axis) (n : Node) : (startAxis a n).tx = n.tx := by unfold startAxis; split <;> simp
@[simp] theorem startAxis_rx (a : Axis) (n : Node) : (startAxis a n).rx = n.rx := by unfold startAxis; split <;> simp
@[simp] theorem startAxis_peers (a : Axis) (n : Node) : (startAxis a n).peers = n.peers := by unfold startAxis; split <;> simp
@[simp] theorem startAxis_supplyScale (a : Axis) (n : Node) : (startAxis a n).supplyScale = n.supplyScale := by unfold startAxis; split <;> simp
@[simp] theorem startAxis_ringMode (a : Axis) (n : Node) : (startAxis a n).ringMode = n.ringMode := by unfold startAxis; split <;> simp
@[simp] theorem startAxis_faults (a : Axis) (n : Node) : (startAxis a n).faults = n.faults := by unfold startAxis; split <;> simp
@[simp] theorem startAxis_drive (a : Axis) (n : Node) : (startAxis a n).drive = n.drive := by unfold startAxis; split <;> simp
@[simp] theorem startAxis_inputs (a : Axis) (n : Node) : (startAxis a n).inputs = n.inputs := by unfold startAxis; split <;> simp
@[simp] theorem startAxis_monitor (a : Axis) (n : Node) : (startAxis a n).monitor = n.monitor := by unfold startAxis; split <;> simp
@[simp] theorem startAxis_cfg (a : Axis) (n : Node) : (startAxis a n).cfg = n.cfg := by unfold startAxis; split <;> simp
@[simp] theorem startAxis_reportCount (a : Axis) (n : Node) : (startAxis a n).reportCount = n.reportCount := by unfold startAxis; split <;> simp
@[simp] theorem startAxis_counters (a : Axis) (n : Node) : (startAxis a n).counters = n.counters := by unfold startAxis; split <;> simp
@[simp] theorem startAxis_due (a : Axis) (n : Node) : (startAxis a n).due = n.due := by unfold startAxis; split <;> simp
@[simp] theorem startAxis_statusEvent (a : Axis) (n : Node) : (startAxis a n).statusEvent = n.statusEvent := by unfold startAxis; split <;> simp

/-! ### enterMoving -/

@[simp] theorem enterMoving_rstnLow (n : Node) : (enterMoving n).rstnLow = n.rstnLow := by simp [enterMoving]
@[simp] theorem enterMoving_rx (n : Node) : (enterMoving n).rx = n.rx := by simp [enterMoving]
@[simp] theorem enterMoving_peers (n : Node) : (enterMoving n).peers = n.peers := by simp [enterMoving]
@[simp] theorem enterMoving_supplyScale (n : Node) : (enterMoving n).supplyScale = n.supplyScale := by simp [enterMoving]
@[simp] theorem enterMoving_ringMode (n : Node) : (enterMoving n).ringMode = n.ringMode := by simp [enterMoving]
@[simp] theorem enterMoving_drive (n : Node) : (enterMoving n).drive = n.drive := by simp [enterMoving]
@[simp] theorem enterMoving_inputs (n : Node) : (enterMoving n).inputs = n.inputs := by simp [enterMoving]
@[simp] theorem enterMoving_monitor (n : Node) : (enterMoving n).monitor = n.monitor := by simp [enterMoving]
@[simp] theorem enterMoving_cfg (n : Node) : (enterMoving n).cfg = n.cfg := by simp [enterMoving]
@[simp] theorem enterMoving_reportCount (n : Node) : (enterMoving n).reportCount = n.reportCount := by simp [enterMoving]
@[simp] theorem enterMoving_due (n : Node) : (enterMoving n).due = n.due := by simp [enterMoving]

/-! ### restAxis -/

@[simp] theorem restAxis_rstnLow (a : Axis) (n : Node) : (restAxis a n).rstnLow = n.rstnLow := by unfold restAxis; split <;> simp
@[simp] theorem restAxis_tx (a : Axis) (n : Node) : (restAxis a n).tx = n.tx := by unfold restAxis; split <;> simp
@[simp] theorem restAxis_rx (a : Axis) (n : Node) : (restAxis a n).rx = n.rx := by unfold restAxis; split <;> simp
@[simp] theorem restAxis_peers (a : Axis) (n : Node) : (restAxis a n).peers = n.peers := by unfold restAxis; split <;> simp
@[simp] theorem restAxis_cue (a : Axis) (n : Node) : (restAxis a n).cue = n.cue := by unfold restAxis; split <;> simp
@[simp] theorem restAxis_supplyScale (a : Axis) (n : Node) : (restAxis a n).supplyScale = n.supplyScale := by unfold restAxis; split <;> simp
@[simp] theorem restAxis_ringMode (a : Axis) (n : Node) : (restAxis a n).ringMode = n.ringMode := by unfold restAxis; split <;> simp
@[simp] theorem restAxis_faults (a : Axis) (n : Node) : (restAxis a n).faults = n.faults := by unfold restAxis; split <;> simp
@[simp] theorem restAxis_drive (a : Axis) (n : Node) : (restAxis a n).drive = n.drive := by unfold restAxis; split <;> simp
@[simp] theorem restAxis_inputs (a : Axis) (n : Node) : (restAxis a n).inputs = n.inputs := by unfold restAxis; split <;> simp
@[simp] theorem restAxis_monitor (a : Axis) (n : Node) : (restAxis a n).monitor = n.monitor := by unfold restAxis; split <;> simp
@[simp] theorem restAxis_cfg (a : Axis) (n : Node) : (restAxis a n).cfg = n.cfg := by unfold restAxis; split <;> simp
@[simp] theorem restAxis_reportCount (a : Axis) (n : Node) : (restAxis a n).reportCount = n.reportCount := by unfold restAxis; split <;> simp
@[simp] theorem restAxis_counters (a : Axis) (n : Node) : (restAxis a n).counters = n.counters := by unfold restAxis; split <;> simp
@[simp] theorem restAxis_due (a : Axis) (n : Node) : (restAxis a n).due = n.due := by unfold restAxis; split <;> simp
@[simp] theorem restAxis_statusEvent (a : Axis) (n : Node) : (restAxis a n).statusEvent = n.statusEvent := by unfold restAxis; split <;> simp

/-! ### enterSettling -/

@[simp] theorem enterSettling_rstnLow (n : Node) : (enterSettling n).rstnLow = n.rstnLow := by simp [enterSettling]
@[simp] theorem enterSettling_tx (n : Node) : (enterSettling n).tx = n.tx := by simp [enterSettling]
@[simp] theorem enterSettling_rx (n : Node) : (enterSettling n).rx = n.rx := by simp [enterSettling]
@[simp] theorem enterSettling_peers (n : Node) : (enterSettling n).peers = n.peers := by simp [enterSettling]
@[simp] theorem enterSettling_supplyScale (n : Node) : (enterSettling n).supplyScale = n.supplyScale := by simp [enterSettling]
@[simp] theorem enterSettling_ringMode (n : Node) : (enterSettling n).ringMode = n.ringMode := by simp [enterSettling]
@[simp] theorem enterSettling_faults (n : Node) : (enterSettling n).faults = n.faults := by simp [enterSettling]
@[simp] theorem enterSettling_drive (n : Node) : (enterSettling n).drive = n.drive := by simp [enterSettling]
@[simp] theorem enterSettling_inputs (n : Node) : (enterSettling n).inputs = n.inputs := by simp [enterSettling]
@[simp] theorem enterSettling_monitor (n : Node) : (enterSettling n).monitor = n.monitor := by simp [enterSettling]
@[simp] theorem enterSettling_cfg (n : Node) : (enterSettling n).cfg = n.cfg := by simp [enterSettling]
@[simp] theorem enterSettling_reportCount (n : Node) : (enterSettling n).reportCount = n.reportCount := by simp [enterSettling]
@[simp] theorem enterSettling_counters (n : Node) : (enterSettling n).counters = n.counters := by simp [enterSettling]

/-! ### retireDone -/

@[simp] theorem retireDone_rstnLow (n : Node) : (retireDone n).rstnLow = n.rstnLow := by simp [retireDone]
@[simp] theorem retireDone_tx (n : Node) : (retireDone n).tx = n.tx := by simp [retireDone]
@[simp] theorem retireDone_rx (n : Node) : (retireDone n).rx = n.rx := by simp [retireDone]
@[simp] theorem retireDone_peers (n : Node) : (retireDone n).peers = n.peers := by simp [retireDone]
@[simp] theorem retireDone_ring (n : Node) : (retireDone n).ring = n.ring := by simp [retireDone]
@[simp] theorem retireDone_tilt (n : Node) : (retireDone n).tilt = n.tilt := by simp [retireDone]
@[simp] theorem retireDone_supplyScale (n : Node) : (retireDone n).supplyScale = n.supplyScale := by simp [retireDone]
@[simp] theorem retireDone_ringMode (n : Node) : (retireDone n).ringMode = n.ringMode := by simp [retireDone]
@[simp] theorem retireDone_faults (n : Node) : (retireDone n).faults = n.faults := by simp [retireDone]
@[simp] theorem retireDone_drive (n : Node) : (retireDone n).drive = n.drive := by simp [retireDone]
@[simp] theorem retireDone_inputs (n : Node) : (retireDone n).inputs = n.inputs := by simp [retireDone]
@[simp] theorem retireDone_monitor (n : Node) : (retireDone n).monitor = n.monitor := by simp [retireDone]
@[simp] theorem retireDone_cfg (n : Node) : (retireDone n).cfg = n.cfg := by simp [retireDone]
@[simp] theorem retireDone_reportCount (n : Node) : (retireDone n).reportCount = n.reportCount := by simp [retireDone]
@[simp] theorem retireDone_due (n : Node) : (retireDone n).due = n.due := by simp [retireDone]

/-! ### enterArmed -/

@[simp] theorem enterArmed_rstnLow (n : Node) : (enterArmed n).rstnLow = n.rstnLow := by simp [enterArmed]
@[simp] theorem enterArmed_tx (n : Node) : (enterArmed n).tx = n.tx := by simp [enterArmed]
@[simp] theorem enterArmed_rx (n : Node) : (enterArmed n).rx = n.rx := by simp [enterArmed]
@[simp] theorem enterArmed_peers (n : Node) : (enterArmed n).peers = n.peers := by simp [enterArmed]
@[simp] theorem enterArmed_ring (n : Node) : (enterArmed n).ring = n.ring := by simp [enterArmed]
@[simp] theorem enterArmed_tilt (n : Node) : (enterArmed n).tilt = n.tilt := by simp [enterArmed]
@[simp] theorem enterArmed_supplyScale (n : Node) : (enterArmed n).supplyScale = n.supplyScale := by simp [enterArmed]
@[simp] theorem enterArmed_ringMode (n : Node) : (enterArmed n).ringMode = n.ringMode := by simp [enterArmed]
@[simp] theorem enterArmed_faults (n : Node) : (enterArmed n).faults = n.faults := by simp [enterArmed]
@[simp] theorem enterArmed_drive (n : Node) : (enterArmed n).drive = n.drive := by simp [enterArmed]
@[simp] theorem enterArmed_inputs (n : Node) : (enterArmed n).inputs = n.inputs := by simp [enterArmed]
@[simp] theorem enterArmed_monitor (n : Node) : (enterArmed n).monitor = n.monitor := by simp [enterArmed]
@[simp] theorem enterArmed_cfg (n : Node) : (enterArmed n).cfg = n.cfg := by simp [enterArmed]
@[simp] theorem enterArmed_reportCount (n : Node) : (enterArmed n).reportCount = n.reportCount := by simp [enterArmed]
@[simp] theorem enterArmed_counters (n : Node) : (enterArmed n).counters = n.counters := by simp [enterArmed]

/-! ### putEntry -/

@[simp] theorem putEntry_rstnLow (s : Nat) (e : Entry) (n : Node) : (putEntry s e n).rstnLow = n.rstnLow := rfl
@[simp] theorem putEntry_tx (s : Nat) (e : Entry) (n : Node) : (putEntry s e n).tx = n.tx := rfl
@[simp] theorem putEntry_rx (s : Nat) (e : Entry) (n : Node) : (putEntry s e n).rx = n.rx := rfl
@[simp] theorem putEntry_cue (s : Nat) (e : Entry) (n : Node) : (putEntry s e n).cue = n.cue := rfl
@[simp] theorem putEntry_ring (s : Nat) (e : Entry) (n : Node) : (putEntry s e n).ring = n.ring := rfl
@[simp] theorem putEntry_tilt (s : Nat) (e : Entry) (n : Node) : (putEntry s e n).tilt = n.tilt := rfl
@[simp] theorem putEntry_supplyScale (s : Nat) (e : Entry) (n : Node) : (putEntry s e n).supplyScale = n.supplyScale := rfl
@[simp] theorem putEntry_ringMode (s : Nat) (e : Entry) (n : Node) : (putEntry s e n).ringMode = n.ringMode := rfl
@[simp] theorem putEntry_faults (s : Nat) (e : Entry) (n : Node) : (putEntry s e n).faults = n.faults := rfl
@[simp] theorem putEntry_drive (s : Nat) (e : Entry) (n : Node) : (putEntry s e n).drive = n.drive := rfl
@[simp] theorem putEntry_inputs (s : Nat) (e : Entry) (n : Node) : (putEntry s e n).inputs = n.inputs := rfl
@[simp] theorem putEntry_monitor (s : Nat) (e : Entry) (n : Node) : (putEntry s e n).monitor = n.monitor := rfl
@[simp] theorem putEntry_cfg (s : Nat) (e : Entry) (n : Node) : (putEntry s e n).cfg = n.cfg := rfl
@[simp] theorem putEntry_reportCount (s : Nat) (e : Entry) (n : Node) : (putEntry s e n).reportCount = n.reportCount := rfl
@[simp] theorem putEntry_counters (s : Nat) (e : Entry) (n : Node) : (putEntry s e n).counters = n.counters := rfl
@[simp] theorem putEntry_due (s : Nat) (e : Entry) (n : Node) : (putEntry s e n).due = n.due := rfl
@[simp] theorem putEntry_statusEvent (s : Nat) (e : Entry) (n : Node) : (putEntry s e n).statusEvent = n.statusEvent := rfl

/-! ### build -/

@[simp] theorem build_rstnLow (n : Node) : (build n).rstnLow = n.rstnLow := by unfold build; dsimp only; split <;> simp
@[simp] theorem build_rx (n : Node) : (build n).rx = n.rx := by unfold build; dsimp only; split <;> simp
@[simp] theorem build_supplyScale (n : Node) : (build n).supplyScale = n.supplyScale := by unfold build; dsimp only; split <;> simp
@[simp] theorem build_ringMode (n : Node) : (build n).ringMode = n.ringMode := by unfold build; dsimp only; split <;> simp
@[simp] theorem build_drive (n : Node) : (build n).drive = n.drive := by unfold build; dsimp only; split <;> simp
@[simp] theorem build_inputs (n : Node) : (build n).inputs = n.inputs := by unfold build; dsimp only; split <;> simp
@[simp] theorem build_monitor (n : Node) : (build n).monitor = n.monitor := by unfold build; dsimp only; split <;> simp
@[simp] theorem build_cfg (n : Node) : (build n).cfg = n.cfg := by unfold build; dsimp only; split <;> simp
@[simp] theorem build_reportCount (n : Node) : (build n).reportCount = n.reportCount := by unfold build; dsimp only; split <;> simp

/-! ### Reading back what was written -/

@[simp] theorem setPlanner_same (a : Axis) (p : Planner) (n : Node) : (setPlanner n a p).planner a = p := by cases a <;> rfl
@[simp] theorem setAxisDrive_same (a : Axis) (d : AxisDrive) (n : Node) : (setAxisDrive n a d).axisDrive a = d := by
  cases a <;> rfl
@[simp] theorem setRelease_same (a : Axis) (r : Option Release) (n : Node) : (setRelease n a r).release a = r := by
  cases a <;> rfl
@[simp] theorem setSlot_same (k : SlotKind) (x : Slot) (n : Node) : (setSlot n k x).slot k = x := by cases k <;> rfl
@[simp] theorem setPhase_phase (p : Phase) (n : Node) : (setPhase p n).cue.phase = p := by
  unfold setPhase; dsimp only; split <;> simp

end Sys2Proof.Machine.Node
end

