-- ==== Sys2Proof/Laws/Finish.lean ====
section
/-! SUPPORT. What the consequences and the build of a step leave as they were, and the induction over the consequences
that gives it: every claim about `finish` is one claim about a consequence and one about the build. -/

namespace Sys2Proof.Machine

/-- Every counter but the five that a consequence or a build can count: halts merged, the retired counts, status overruns. -/
def Counters.others (c : Counters) : Counters :=
  { c with haltsMerged := 0, retiredDone := 0, retiredFailed := 0, retiredCancelled := 0, statusOverruns := 0 }

/-- The links of an axis: everything it holds but its brake. -/
def AxisDrive.links (d : AxisDrive) : AxisDrive :=
  { d with released := false, supervision := .unsupervised, brakeTimer := 0 }

/-- Everything the Drive and Sensor Interface holds but the brakes. -/
def Drive.links (d : Drive) : Drive := { d with ring := d.ring.links, tilt := d.tilt.links }

namespace Node

/-- An axis whose links stand keeps the interface's links. -/
@[simp] theorem setAxisDrive_drive_links (a : Axis) (d : AxisDrive) (n : Node) (h : d.links = (n.axisDrive a).links) :
    (setAxisDrive n a d).drive.links = n.drive.links := by
  cases a <;> simp_all [setAxisDrive, axisDrive, Drive.links]

/-! ### requestHalt -/

@[simp] theorem requestHalt_tx_status (k : FaultKind) (n : Node) : (requestHalt k n).tx.status = n.tx.status := by unfold requestHalt; split <;> rfl
@[simp] theorem requestHalt_tx_report (k : FaultKind) (n : Node) : (requestHalt k n).tx.report = n.tx.report := by unfold requestHalt; split <;> rfl
@[simp] theorem requestHalt_tx_random (k : FaultKind) (n : Node) : (requestHalt k n).tx.random = n.tx.random := by unfold requestHalt; split <;> rfl
@[simp] theorem requestHalt_tx_driving (k : FaultKind) (n : Node) : (requestHalt k n).tx.driving = n.tx.driving := by unfold requestHalt; split <;> rfl
@[simp] theorem requestHalt_tx_jam (k : FaultKind) (n : Node) : (requestHalt k n).tx.jam = n.tx.jam := by unfold requestHalt; split <;> rfl
@[simp] theorem requestHalt_cue_permit (k : FaultKind) (n : Node) : (requestHalt k n).cue.permit = n.cue.permit := by unfold requestHalt; split <;> rfl
@[simp] theorem requestHalt_counters_others (k : FaultKind) (n : Node) : (requestHalt k n).counters.others = n.counters.others := by unfold requestHalt; split <;> rfl

/-! ### pushRetired -/

@[simp] theorem pushRetired_cue_permit (id : CueId) (e : CueEnd) (n : Node) : (pushRetired id e n).cue.permit = n.cue.permit := by cases e <;> rfl
@[simp] theorem pushRetired_counters_others (id : CueId) (e : CueEnd) (n : Node) : (pushRetired id e n).counters.others = n.counters.others := by cases e <;> rfl

/-! ### retireHead -/

@[simp] theorem retireHead_cue_permit (e : CueEnd) (n : Node) : (retireHead e n).cue.permit = n.cue.permit := by unfold retireHead; split <;> simp
@[simp] theorem retireHead_counters_others (e : CueEnd) (n : Node) : (retireHead e n).counters.others = n.counters.others := by unfold retireHead; split <;> simp

/-! ### markHead -/

@[simp] theorem markHead_cue_permit (b : Bool) (n : Node) : (markHead b n).cue.permit = n.cue.permit := by unfold markHead; split <;> rfl

/-! ### setPhase -/

@[simp] theorem setPhase_cue_permit (p : Phase) (n : Node) : (setPhase p n).cue.permit = n.cue.permit := by unfold setPhase; dsimp only; split <;> simp

/-! ### setRefusal -/

@[simp] theorem setRefusal_cue_permit (id : CueId) (r : CueReason) (n : Node) : (setRefusal id r n).cue.permit = n.cue.permit := by unfold setRefusal; split <;> simp

/-! ### setHolds -/

@[simp] theorem setHolds_cue_permit (h : HoldSet) (n : Node) : (setHolds h n).cue.permit = n.cue.permit := by unfold setHolds; split <;> simp

/-! ### setRelease -/

@[simp] theorem setRelease_cue_permit (a : Axis) (r : Option Release) (n : Node) : (setRelease n a r).cue.permit = n.cue.permit := by cases a <;> rfl

/-! ### writeHaltRecord -/

@[simp] theorem writeHaltRecord_cue_permit (o : Nat) (r : HaltReason) (n : Node) : (writeHaltRecord o r n).cue.permit = n.cue.permit := rfl

/-! ### failHead -/

@[simp] theorem failHead_cue_permit (r : CueReason) (n : Node) : (failHead r n).cue.permit = n.cue.permit := by unfold failHead; dsimp only; split <;> simp
@[simp] theorem failHead_counters_others (r : CueReason) (n : Node) : (failHead r n).counters.others = n.counters.others := by unfold failHead; dsimp only; split <;> simp

/-! ### enterHalted -/

@[simp] theorem enterHalted_cue_permit (n : Node) : (enterHalted n).cue.permit = n.cue.permit := by unfold enterHalted; dsimp only; split <;> simp
@[simp] theorem enterHalted_counters_others (n : Node) : (enterHalted n).counters.others = n.counters.others := by unfold enterHalted; dsimp only; split <;> simp

/-! ### raise -/

@[simp] theorem raise_tx_status (k : FaultKind) (n : Node) : (raise k n).tx.status = n.tx.status := by unfold raise; dsimp only; (repeat' split) <;> simp
@[simp] theorem raise_tx_report (k : FaultKind) (n : Node) : (raise k n).tx.report = n.tx.report := by unfold raise; dsimp only; (repeat' split) <;> simp
@[simp] theorem raise_tx_random (k : FaultKind) (n : Node) : (raise k n).tx.random = n.tx.random := by unfold raise; dsimp only; (repeat' split) <;> simp
@[simp] theorem raise_tx_driving (k : FaultKind) (n : Node) : (raise k n).tx.driving = n.tx.driving := by unfold raise; dsimp only; (repeat' split) <;> simp
@[simp] theorem raise_tx_jam (k : FaultKind) (n : Node) : (raise k n).tx.jam = n.tx.jam := by unfold raise; dsimp only; (repeat' split) <;> simp
@[simp] theorem raise_cue_permit (k : FaultKind) (n : Node) : (raise k n).cue.permit = n.cue.permit := by unfold raise; dsimp only; (repeat' split) <;> simp
@[simp] theorem raise_counters_others (k : FaultKind) (n : Node) : (raise k n).counters.others = n.counters.others := by unfold raise; dsimp only; (repeat' split) <;> simp

/-! ### raiseIf -/

@[simp] theorem raiseIf_tx_status (b : Bool) (k : FaultKind) (n : Node) : (raiseIf b k n).tx.status = n.tx.status := by unfold raiseIf; split <;> simp
@[simp] theorem raiseIf_tx_report (b : Bool) (k : FaultKind) (n : Node) : (raiseIf b k n).tx.report = n.tx.report := by unfold raiseIf; split <;> simp
@[simp] theorem raiseIf_tx_random (b : Bool) (k : FaultKind) (n : Node) : (raiseIf b k n).tx.random = n.tx.random := by unfold raiseIf; split <;> simp
@[simp] theorem raiseIf_tx_driving (b : Bool) (k : FaultKind) (n : Node) : (raiseIf b k n).tx.driving = n.tx.driving := by unfold raiseIf; split <;> simp
@[simp] theorem raiseIf_tx_jam (b : Bool) (k : FaultKind) (n : Node) : (raiseIf b k n).tx.jam = n.tx.jam := by unfold raiseIf; split <;> simp
@[simp] theorem raiseIf_cue_permit (b : Bool) (k : FaultKind) (n : Node) : (raiseIf b k n).cue.permit = n.cue.permit := by unfold raiseIf; split <;> simp
@[simp] theorem raiseIf_counters_others (b : Bool) (k : FaultKind) (n : Node) : (raiseIf b k n).counters.others = n.counters.others := by unfold raiseIf; split <;> simp

/-! ### superviseTow -/

@[simp] theorem superviseTow_tx_status (n : Node) : (superviseTow n).tx.status = n.tx.status := by simp [superviseTow]
@[simp] theorem superviseTow_tx_report (n : Node) : (superviseTow n).tx.report = n.tx.report := by simp [superviseTow]
@[simp] theorem superviseTow_tx_random (n : Node) : (superviseTow n).tx.random = n.tx.random := by simp [superviseTow]
@[simp] theorem superviseTow_tx_driving (n : Node) : (superviseTow n).tx.driving = n.tx.driving := by simp [superviseTow]
@[simp] theorem superviseTow_tx_jam (n : Node) : (superviseTow n).tx.jam = n.tx.jam := by simp [superviseTow]
@[simp] theorem superviseTow_cue_permit (n : Node) : (superviseTow n).cue.permit = n.cue.permit := by simp [superviseTow]
@[simp] theorem superviseTow_counters_others (n : Node) : (superviseTow n).counters.others = n.counters.others := by simp [superviseTow]

/-! ### reportReleased -/

@[simp] theorem reportReleased_cue_permit (a : Axis) (n : Node) : (reportReleased a n).cue.permit = n.cue.permit := by unfold reportReleased; split <;> simp

/-! ### brakeAgreed -/

@[simp] theorem brakeAgreed_cue_permit (a : Axis) (n : Node) : (brakeAgreed a n).cue.permit = n.cue.permit := by unfold brakeAgreed; dsimp only; split <;> simp
@[simp] theorem brakeAgreed_drive_links (a : Axis) (n : Node) : (brakeAgreed a n).drive.links = n.drive.links := by
  unfold brakeAgreed; dsimp only; split
  · rw [reportReleased_drive]; exact setAxisDrive_drive_links _ _ _ rfl
  · exact setAxisDrive_drive_links _ _ _ rfl

/-! ### changeBrake -/

@[simp] theorem changeBrake_cue_permit (a : Axis) (n : Node) : (changeBrake a n).cue.permit = n.cue.permit := by
  unfold changeBrake; dsimp only; (repeat' split) <;> simp
@[simp] theorem changeBrake_drive_links (a : Axis) (n : Node) : (changeBrake a n).drive.links = n.drive.links := by
  unfold changeBrake; dsimp only
  have h := setAxisDrive_drive_links a { n.axisDrive a with released := !(n.axisDrive a).released } n rfl
  split
  · exact h
  · split
    · rw [brakeAgreed_drive_links]; exact h
    · rw [dropDue_drive]; refine (setAxisDrive_drive_links a _ _ ?_).trans h; cases a <;> rfl

/-! ### startAxis -/

@[simp] theorem startAxis_cue_permit (a : Axis) (n : Node) : (startAxis a n).cue.permit = n.cue.permit := by unfold startAxis; split <;> simp

/-! ### enterMoving -/

@[simp] theorem enterMoving_tx_status (n : Node) : (enterMoving n).tx.status = n.tx.status := by simp [enterMoving]
@[simp] theorem enterMoving_tx_report (n : Node) : (enterMoving n).tx.report = n.tx.report := by simp [enterMoving]
@[simp] theorem enterMoving_tx_random (n : Node) : (enterMoving n).tx.random = n.tx.random := by simp [enterMoving]
@[simp] theorem enterMoving_tx_driving (n : Node) : (enterMoving n).tx.driving = n.tx.driving := by simp [enterMoving]
@[simp] theorem enterMoving_tx_jam (n : Node) : (enterMoving n).tx.jam = n.tx.jam := by simp [enterMoving]
@[simp] theorem enterMoving_cue_permit (n : Node) : (enterMoving n).cue.permit = n.cue.permit := by simp [enterMoving]
@[simp] theorem enterMoving_counters_others (n : Node) : (enterMoving n).counters.others = n.counters.others := by simp [enterMoving]

/-! ### enterSettling -/

@[simp] theorem enterSettling_cue_permit (n : Node) : (enterSettling n).cue.permit = n.cue.permit := by simp [enterSettling]

/-! ### retireDone -/

@[simp] theorem retireDone_cue_permit (n : Node) : (retireDone n).cue.permit = n.cue.permit := by simp [retireDone]
@[simp] theorem retireDone_counters_others (n : Node) : (retireDone n).counters.others = n.counters.others := by simp [retireDone]

/-! ### enterArmed -/

@[simp] theorem enterArmed_cue_permit (n : Node) : (enterArmed n).cue.permit = n.cue.permit := by simp [enterArmed]

/-! ### fillStatus -/

@[simp] theorem fillStatus_tx_report (f : List Byte) (n : Node) : (fillStatus f n).tx.report = n.tx.report := by unfold fillStatus; dsimp only; split <;> rfl
@[simp] theorem fillStatus_tx_random (f : List Byte) (n : Node) : (fillStatus f n).tx.random = n.tx.random := by unfold fillStatus; dsimp only; split <;> rfl
@[simp] theorem fillStatus_tx_driving (f : List Byte) (n : Node) : (fillStatus f n).tx.driving = n.tx.driving := by unfold fillStatus; dsimp only; split <;> rfl
@[simp] theorem fillStatus_tx_jam (f : List Byte) (n : Node) : (fillStatus f n).tx.jam = n.tx.jam := by unfold fillStatus; dsimp only; split <;> rfl
@[simp] theorem fillStatus_counters_others (f : List Byte) (n : Node) : (fillStatus f n).counters.others = n.counters.others := by unfold fillStatus; dsimp only; split <;> rfl

/-! ### build -/

@[simp] theorem build_tx_report (n : Node) : (build n).tx.report = n.tx.report := by unfold build; dsimp only; split <;> simp [putEntry, dropDue]
@[simp] theorem build_tx_random (n : Node) : (build n).tx.random = n.tx.random := by unfold build; dsimp only; split <;> simp [putEntry, dropDue]
@[simp] theorem build_tx_driving (n : Node) : (build n).tx.driving = n.tx.driving := by unfold build; dsimp only; split <;> simp [putEntry, dropDue]
@[simp] theorem build_tx_jam (n : Node) : (build n).tx.jam = n.tx.jam := by unfold build; dsimp only; split <;> simp [putEntry, dropDue]
@[simp] theorem build_cue_permit (n : Node) : (build n).cue.permit = n.cue.permit := by unfold build; dsimp only; split <;> simp [putEntry, dropDue]
@[simp] theorem build_counters_others (n : Node) : (build n).counters.others = n.counters.others := by unfold build; dsimp only; split <;> simp [putEntry, dropDue]

/-! ### applyConsequence -/

@[simp] theorem applyConsequence_peers (c : Consequence) (n : Node) : (applyConsequence c n).peers = n.peers := by cases c <;> simp [applyConsequence] <;> split <;> simp
@[simp] theorem applyConsequence_tx_status (c : Consequence) (n : Node) : (applyConsequence c n).tx.status = n.tx.status := by cases c <;> simp [applyConsequence] <;> split <;> simp
@[simp] theorem applyConsequence_rstnLow (c : Consequence) (n : Node) : (applyConsequence c n).rstnLow = n.rstnLow := by cases c <;> simp [applyConsequence] <;> split <;> simp
@[simp] theorem applyConsequence_rx (c : Consequence) (n : Node) : (applyConsequence c n).rx = n.rx := by cases c <;> simp [applyConsequence] <;> split <;> simp
@[simp] theorem applyConsequence_supplyScale (c : Consequence) (n : Node) : (applyConsequence c n).supplyScale = n.supplyScale := by cases c <;> simp [applyConsequence] <;> split <;> simp
@[simp] theorem applyConsequence_ringMode (c : Consequence) (n : Node) : (applyConsequence c n).ringMode = n.ringMode := by cases c <;> simp [applyConsequence] <;> split <;> simp
@[simp] theorem applyConsequence_inputs (c : Consequence) (n : Node) : (applyConsequence c n).inputs = n.inputs := by cases c <;> simp [applyConsequence] <;> split <;> simp
@[simp] theorem applyConsequence_monitor (c : Consequence) (n : Node) : (applyConsequence c n).monitor = n.monitor := by cases c <;> simp [applyConsequence] <;> split <;> simp
@[simp] theorem applyConsequence_cfg (c : Consequence) (n : Node) : (applyConsequence c n).cfg = n.cfg := by cases c <;> simp [applyConsequence] <;> split <;> simp
@[simp] theorem applyConsequence_reportCount (c : Consequence) (n : Node) : (applyConsequence c n).reportCount = n.reportCount := by cases c <;> simp [applyConsequence] <;> split <;> simp
@[simp] theorem applyConsequence_cue_permit (c : Consequence) (n : Node) : (applyConsequence c n).cue.permit = n.cue.permit := by cases c <;> simp [applyConsequence] <;> split <;> simp
@[simp] theorem applyConsequence_drive_links (c : Consequence) (n : Node) : (applyConsequence c n).drive.links = n.drive.links := by cases c <;> simp [applyConsequence] <;> split <;> simp
@[simp] theorem applyConsequence_counters_others (c : Consequence) (n : Node) : (applyConsequence c n).counters.others = n.counters.others := by cases c <;> simp [applyConsequence] <;> split <;> simp
@[simp] theorem applyConsequence_tx_report (c : Consequence) (n : Node) : (applyConsequence c n).tx.report = n.tx.report := by cases c <;> simp [applyConsequence] <;> split <;> simp
@[simp] theorem applyConsequence_tx_random (c : Consequence) (n : Node) : (applyConsequence c n).tx.random = n.tx.random := by cases c <;> simp [applyConsequence] <;> split <;> simp
@[simp] theorem applyConsequence_tx_driving (c : Consequence) (n : Node) : (applyConsequence c n).tx.driving = n.tx.driving := by cases c <;> simp [applyConsequence] <;> split <;> simp
@[simp] theorem applyConsequence_tx_jam (c : Consequence) (n : Node) : (applyConsequence c n).tx.jam = n.tx.jam := by cases c <;> simp [applyConsequence] <;> split <;> simp

/-! ### settle and settled -/

/-- What every consequence keeps where it comes next, `settle` keeps. -/
theorem settle_induct_of {P : Node → Prop} {tick : Bool}
    (step : ∀ c n, n.nextConsequence tick = some c → P n → P (applyConsequence c n)) :
    ∀ (fuel : Nat) (n : Node), P n → P (settle tick fuel n)
  | 0, _, h => h
  | fuel + 1, n, h => by
    unfold settle
    split
    · exact h
    · rename_i c hc
      exact settle_induct_of step fuel _ (step _ _ hc h)

/-- What every consequence keeps where it comes next, `settled` keeps. -/
theorem settled_induct_of {P : Node → Prop} {tick : Bool}
    (step : ∀ c n, n.nextConsequence tick = some c → P n → P (applyConsequence c n)) (n : Node) (h : P n) :
    P (settled tick n) := settle_induct_of step _ n h

/-- What every consequence keeps, `settled` keeps. -/
theorem settled_induct {P : Node → Prop} (step : ∀ c n, P n → P (applyConsequence c n)) (tick : Bool) (n : Node)
    (h : P n) : P (settled tick n) := settled_induct_of (fun c m _ => step c m) n h

/-- A reading of the part that every consequence leaves as it was, `settled` leaves as it was. -/
theorem settled_keeps {α : Type} (f : Node → α) (step : ∀ c n, f (applyConsequence c n) = f n) (tick : Bool) (n : Node) :
    f (settled tick n) = f n :=
  settled_induct (P := fun m => f m = f n) (fun c m h => (step c m).trans h) tick n rfl

@[simp] theorem settled_peers (tick : Bool) (n : Node) : (settled tick n).peers = n.peers :=
  settled_keeps (fun m => m.peers) (fun c m => applyConsequence_peers c m) tick n
@[simp] theorem settled_tx_status (tick : Bool) (n : Node) : (settled tick n).tx.status = n.tx.status :=
  settled_keeps (fun m => m.tx.status) (fun c m => applyConsequence_tx_status c m) tick n
@[simp] theorem settled_rstnLow (tick : Bool) (n : Node) : (settled tick n).rstnLow = n.rstnLow :=
  settled_keeps (fun m => m.rstnLow) (fun c m => applyConsequence_rstnLow c m) tick n
@[simp] theorem settled_rx (tick : Bool) (n : Node) : (settled tick n).rx = n.rx :=
  settled_keeps (fun m => m.rx) (fun c m => applyConsequence_rx c m) tick n
@[simp] theorem settled_supplyScale (tick : Bool) (n : Node) : (settled tick n).supplyScale = n.supplyScale :=
  settled_keeps (fun m => m.supplyScale) (fun c m => applyConsequence_supplyScale c m) tick n
@[simp] theorem settled_ringMode (tick : Bool) (n : Node) : (settled tick n).ringMode = n.ringMode :=
  settled_keeps (fun m => m.ringMode) (fun c m => applyConsequence_ringMode c m) tick n
@[simp] theorem settled_inputs (tick : Bool) (n : Node) : (settled tick n).inputs = n.inputs :=
  settled_keeps (fun m => m.inputs) (fun c m => applyConsequence_inputs c m) tick n
@[simp] theorem settled_monitor (tick : Bool) (n : Node) : (settled tick n).monitor = n.monitor :=
  settled_keeps (fun m => m.monitor) (fun c m => applyConsequence_monitor c m) tick n
@[simp] theorem settled_cfg (tick : Bool) (n : Node) : (settled tick n).cfg = n.cfg :=
  settled_keeps (fun m => m.cfg) (fun c m => applyConsequence_cfg c m) tick n
@[simp] theorem settled_reportCount (tick : Bool) (n : Node) : (settled tick n).reportCount = n.reportCount :=
  settled_keeps (fun m => m.reportCount) (fun c m => applyConsequence_reportCount c m) tick n
@[simp] theorem settled_cue_permit (tick : Bool) (n : Node) : (settled tick n).cue.permit = n.cue.permit :=
  settled_keeps (fun m => m.cue.permit) (fun c m => applyConsequence_cue_permit c m) tick n
@[simp] theorem settled_drive_links (tick : Bool) (n : Node) : (settled tick n).drive.links = n.drive.links :=
  settled_keeps (fun m => m.drive.links) (fun c m => applyConsequence_drive_links c m) tick n
@[simp] theorem settled_counters_others (tick : Bool) (n : Node) : (settled tick n).counters.others = n.counters.others :=
  settled_keeps (fun m => m.counters.others) (fun c m => applyConsequence_counters_others c m) tick n
@[simp] theorem settled_tx_report (tick : Bool) (n : Node) : (settled tick n).tx.report = n.tx.report :=
  settled_keeps (fun m => m.tx.report) (fun c m => applyConsequence_tx_report c m) tick n
@[simp] theorem settled_tx_random (tick : Bool) (n : Node) : (settled tick n).tx.random = n.tx.random :=
  settled_keeps (fun m => m.tx.random) (fun c m => applyConsequence_tx_random c m) tick n
@[simp] theorem settled_tx_driving (tick : Bool) (n : Node) : (settled tick n).tx.driving = n.tx.driving :=
  settled_keeps (fun m => m.tx.driving) (fun c m => applyConsequence_tx_driving c m) tick n
@[simp] theorem settled_tx_jam (tick : Bool) (n : Node) : (settled tick n).tx.jam = n.tx.jam :=
  settled_keeps (fun m => m.tx.jam) (fun c m => applyConsequence_tx_jam c m) tick n

/-! ### finish -/

/-- What every consequence keeps where it comes next, and the build and its marks keep, `finish` keeps. -/
theorem finish_induct_of {P : Node → Prop} {tick : Bool}
    (step : ∀ c n, n.nextConsequence tick = some c → P n → P (applyConsequence c n)) (hbuild : ∀ n, P n → P (build n))
    (hmark : ∀ n b, P n → P { n with statusEvent := b })
    (hpend : ∀ n b, P n → P { n with peers := { n.peers with pendingBuild := b } }) (n : Node) (h : P n) :
    P (finish tick n) := by
  unfold finish
  dsimp only
  have h1 := settled_induct_of step n h
  split
  · split
    · have h2 := settled_induct_of step _ (hbuild _ (hmark _ false h1))
      split
      · exact hmark _ false (hpend _ true h2)
      · exact h2
    · exact hmark _ false (hpend _ true h1)
  · exact h1

/-- What every consequence, the build and its marks keep, `finish` keeps. -/
theorem finish_induct {P : Node → Prop} (step : ∀ c n, P n → P (applyConsequence c n)) (hbuild : ∀ n, P n → P (build n))
    (hmark : ∀ n b, P n → P { n with statusEvent := b })
    (hpend : ∀ n b, P n → P { n with peers := { n.peers with pendingBuild := b } }) (tick : Bool) (n : Node) (h : P n) :
    P (finish tick n) := finish_induct_of (fun c m _ => step c m) hbuild hmark hpend n h

/-- A reading of the part that every consequence, the build and its marks leave as it was, `finish` leaves as it was. -/
theorem finish_keeps {α : Type} (f : Node → α) (step : ∀ c n, f (applyConsequence c n) = f n)
    (hbuild : ∀ n, f (build n) = f n) (hmark : ∀ n b, f { n with statusEvent := b } = f n)
    (hpend : ∀ n b, f { n with peers := { n.peers with pendingBuild := b } } = f n) (tick : Bool) (n : Node) :
    f (finish tick n) = f n :=
  finish_induct (P := fun m => f m = f n) (fun c m h => (step c m).trans h) (fun m h => (hbuild m).trans h)
    (fun m b h => (hmark m b).trans h) (fun m b h => (hpend m b).trans h) tick n rfl

@[simp] theorem finish_rstnLow (tick : Bool) (n : Node) : (finish tick n).rstnLow = n.rstnLow :=
  finish_keeps (fun m => m.rstnLow) (fun c m => applyConsequence_rstnLow c m) (fun m => build_rstnLow m) (fun _ _ => rfl)
    (fun _ _ => rfl) tick n
@[simp] theorem finish_rx (tick : Bool) (n : Node) : (finish tick n).rx = n.rx :=
  finish_keeps (fun m => m.rx) (fun c m => applyConsequence_rx c m) (fun m => build_rx m) (fun _ _ => rfl)
    (fun _ _ => rfl) tick n
@[simp] theorem finish_supplyScale (tick : Bool) (n : Node) : (finish tick n).supplyScale = n.supplyScale :=
  finish_keeps (fun m => m.supplyScale) (fun c m => applyConsequence_supplyScale c m) (fun m => build_supplyScale m) (fun _ _ => rfl)
    (fun _ _ => rfl) tick n
@[simp] theorem finish_ringMode (tick : Bool) (n : Node) : (finish tick n).ringMode = n.ringMode :=
  finish_keeps (fun m => m.ringMode) (fun c m => applyConsequence_ringMode c m) (fun m => build_ringMode m) (fun _ _ => rfl)
    (fun _ _ => rfl) tick n
@[simp] theorem finish_inputs (tick : Bool) (n : Node) : (finish tick n).inputs = n.inputs :=
  finish_keeps (fun m => m.inputs) (fun c m => applyConsequence_inputs c m) (fun m => build_inputs m) (fun _ _ => rfl)
    (fun _ _ => rfl) tick n
@[simp] theorem finish_monitor (tick : Bool) (n : Node) : (finish tick n).monitor = n.monitor :=
  finish_keeps (fun m => m.monitor) (fun c m => applyConsequence_monitor c m) (fun m => build_monitor m) (fun _ _ => rfl)
    (fun _ _ => rfl) tick n
@[simp] theorem finish_cfg (tick : Bool) (n : Node) : (finish tick n).cfg = n.cfg :=
  finish_keeps (fun m => m.cfg) (fun c m => applyConsequence_cfg c m) (fun m => build_cfg m) (fun _ _ => rfl)
    (fun _ _ => rfl) tick n
@[simp] theorem finish_reportCount (tick : Bool) (n : Node) : (finish tick n).reportCount = n.reportCount :=
  finish_keeps (fun m => m.reportCount) (fun c m => applyConsequence_reportCount c m) (fun m => build_reportCount m) (fun _ _ => rfl)
    (fun _ _ => rfl) tick n
@[simp] theorem finish_cue_permit (tick : Bool) (n : Node) : (finish tick n).cue.permit = n.cue.permit :=
  finish_keeps (fun m => m.cue.permit) (fun c m => applyConsequence_cue_permit c m) (fun m => build_cue_permit m) (fun _ _ => rfl)
    (fun _ _ => rfl) tick n
@[simp] theorem finish_drive_links (tick : Bool) (n : Node) : (finish tick n).drive.links = n.drive.links :=
  finish_keeps (fun m => m.drive.links) (fun c m => applyConsequence_drive_links c m) (fun m => by simp) (fun _ _ => rfl)
    (fun _ _ => rfl) tick n
@[simp] theorem finish_counters_others (tick : Bool) (n : Node) : (finish tick n).counters.others = n.counters.others :=
  finish_keeps (fun m => m.counters.others) (fun c m => applyConsequence_counters_others c m) (fun m => build_counters_others m) (fun _ _ => rfl)
    (fun _ _ => rfl) tick n
@[simp] theorem finish_tx_report (tick : Bool) (n : Node) : (finish tick n).tx.report = n.tx.report :=
  finish_keeps (fun m => m.tx.report) (fun c m => applyConsequence_tx_report c m) (fun m => build_tx_report m) (fun _ _ => rfl)
    (fun _ _ => rfl) tick n
@[simp] theorem finish_tx_random (tick : Bool) (n : Node) : (finish tick n).tx.random = n.tx.random :=
  finish_keeps (fun m => m.tx.random) (fun c m => applyConsequence_tx_random c m) (fun m => build_tx_random m) (fun _ _ => rfl)
    (fun _ _ => rfl) tick n
@[simp] theorem finish_tx_driving (tick : Bool) (n : Node) : (finish tick n).tx.driving = n.tx.driving :=
  finish_keeps (fun m => m.tx.driving) (fun c m => applyConsequence_tx_driving c m) (fun m => build_tx_driving m) (fun _ _ => rfl)
    (fun _ _ => rfl) tick n
@[simp] theorem finish_tx_jam (tick : Bool) (n : Node) : (finish tick n).tx.jam = n.tx.jam :=
  finish_keeps (fun m => m.tx.jam) (fun c m => applyConsequence_tx_jam c m) (fun m => build_tx_jam m) (fun _ _ => rfl)
    (fun _ _ => rfl) tick n

@[simp] theorem finish_drive_ring_raw (tick : Bool) (n : Node) : (finish tick n).drive.ring.raw = n.drive.ring.raw :=
  have h := congrArg (fun d : Drive => d.ring.raw) (finish_drive_links tick n)
  h
@[simp] theorem finish_drive_ring_readFails (tick : Bool) (n : Node) : (finish tick n).drive.ring.readFails = n.drive.ring.readFails :=
  have h := congrArg (fun d : Drive => d.ring.readFails) (finish_drive_links tick n)
  h
@[simp] theorem finish_drive_ring_reading (tick : Bool) (n : Node) : (finish tick n).drive.ring.reading = n.drive.ring.reading :=
  have h := congrArg (fun d : Drive => d.ring.reading) (finish_drive_links tick n)
  h
@[simp] theorem finish_drive_tilt_raw (tick : Bool) (n : Node) : (finish tick n).drive.tilt.raw = n.drive.tilt.raw :=
  have h := congrArg (fun d : Drive => d.tilt.raw) (finish_drive_links tick n)
  h
@[simp] theorem finish_drive_tilt_readFails (tick : Bool) (n : Node) : (finish tick n).drive.tilt.readFails = n.drive.tilt.readFails :=
  have h := congrArg (fun d : Drive => d.tilt.readFails) (finish_drive_links tick n)
  h
@[simp] theorem finish_drive_tilt_reading (tick : Bool) (n : Node) : (finish tick n).drive.tilt.reading = n.drive.tilt.reading :=
  have h := congrArg (fun d : Drive => d.tilt.reading) (finish_drive_links tick n)
  h
@[simp] theorem finish_drive_reply (tick : Bool) (n : Node) : (finish tick n).drive.reply = n.drive.reply :=
  have h := congrArg (fun d : Drive => d.reply) (finish_drive_links tick n)
  h
@[simp] theorem finish_drive_failedExchanges (tick : Bool) (n : Node) : (finish tick n).drive.failedExchanges = n.drive.failedExchanges :=
  have h := congrArg (fun d : Drive => d.failedExchanges) (finish_drive_links tick n)
  h
@[simp] theorem finish_drive_request (tick : Bool) (n : Node) : (finish tick n).drive.request = n.drive.request :=
  have h := congrArg (fun d : Drive => d.request) (finish_drive_links tick n)
  h
@[simp] theorem finish_drive_exchanging (tick : Bool) (n : Node) : (finish tick n).drive.exchanging = n.drive.exchanging :=
  have h := congrArg (fun d : Drive => d.exchanging) (finish_drive_links tick n)
  h
@[simp] theorem finish_counters_statusSent (tick : Bool) (n : Node) : (finish tick n).counters.statusSent = n.counters.statusSent :=
  have h := congrArg (fun d : Counters => d.statusSent) (finish_counters_others tick n)
  h
@[simp] theorem finish_counters_haltSent (tick : Bool) (n : Node) : (finish tick n).counters.haltSent = n.counters.haltSent :=
  have h := congrArg (fun d : Counters => d.haltSent) (finish_counters_others tick n)
  h
@[simp] theorem finish_counters_reportSent (tick : Bool) (n : Node) : (finish tick n).counters.reportSent = n.counters.reportSent :=
  have h := congrArg (fun d : Counters => d.reportSent) (finish_counters_others tick n)
  h
@[simp] theorem finish_counters_collisions (tick : Bool) (n : Node) : (finish tick n).counters.collisions = n.counters.collisions :=
  have h := congrArg (fun d : Counters => d.collisions) (finish_counters_others tick n)
  h
@[simp] theorem finish_counters_lateCollisions (tick : Bool) (n : Node) : (finish tick n).counters.lateCollisions = n.counters.lateCollisions :=
  have h := congrArg (fun d : Counters => d.lateCollisions) (finish_counters_others tick n)
  h
@[simp] theorem finish_counters_retryDrops (tick : Bool) (n : Node) : (finish tick n).counters.retryDrops = n.counters.retryDrops :=
  have h := congrArg (fun d : Counters => d.retryDrops) (finish_counters_others tick n)
  h
@[simp] theorem finish_counters_inquiriesBusy (tick : Bool) (n : Node) : (finish tick n).counters.inquiriesBusy = n.counters.inquiriesBusy :=
  have h := congrArg (fun d : Counters => d.inquiriesBusy) (finish_counters_others tick n)
  h
@[simp] theorem finish_counters_runt (tick : Bool) (n : Node) : (finish tick n).counters.runt = n.counters.runt :=
  have h := congrArg (fun d : Counters => d.runt) (finish_counters_others tick n)
  h
@[simp] theorem finish_counters_crcError (tick : Bool) (n : Node) : (finish tick n).counters.crcError = n.counters.crcError :=
  have h := congrArg (fun d : Counters => d.crcError) (finish_counters_others tick n)
  h
@[simp] theorem finish_counters_missed (tick : Bool) (n : Node) : (finish tick n).counters.missed = n.counters.missed :=
  have h := congrArg (fun d : Counters => d.missed) (finish_counters_others tick n)
  h
@[simp] theorem finish_counters_filtered (tick : Bool) (n : Node) : (finish tick n).counters.filtered = n.counters.filtered :=
  have h := congrArg (fun d : Counters => d.filtered) (finish_counters_others tick n)
  h
@[simp] theorem finish_counters_old (tick : Bool) (n : Node) : (finish tick n).counters.old = n.counters.old :=
  have h := congrArg (fun d : Counters => d.old) (finish_counters_others tick n)
  h
@[simp] theorem finish_counters_unexpectedStation (tick : Bool) (n : Node) : (finish tick n).counters.unexpectedStation = n.counters.unexpectedStation :=
  have h := congrArg (fun d : Counters => d.unexpectedStation) (finish_counters_others tick n)
  h
@[simp] theorem finish_counters_accepted (tick : Bool) (n : Node) : (finish tick n).counters.accepted = n.counters.accepted :=
  have h := congrArg (fun d : Counters => d.accepted) (finish_counters_others tick n)
  h
@[simp] theorem finish_counters_duplicateCues (tick : Bool) (n : Node) : (finish tick n).counters.duplicateCues = n.counters.duplicateCues :=
  have h := congrArg (fun d : Counters => d.duplicateCues) (finish_counters_others tick n)
  h
@[simp] theorem finish_counters_cuesAccepted (tick : Bool) (n : Node) : (finish tick n).counters.cuesAccepted = n.counters.cuesAccepted :=
  have h := congrArg (fun d : Counters => d.cuesAccepted) (finish_counters_others tick n)
  h
@[simp] theorem finish_counters_cuesRefused (tick : Bool) (n : Node) : (finish tick n).counters.cuesRefused = n.counters.cuesRefused :=
  have h := congrArg (fun d : Counters => d.cuesRefused) (finish_counters_others tick n)
  h
@[simp] theorem finish_counters_haltsReceived (tick : Bool) (n : Node) : (finish tick n).counters.haltsReceived = n.counters.haltsReceived :=
  have h := congrArg (fun d : Counters => d.haltsReceived) (finish_counters_others tick n)
  h
@[simp] theorem finish_counters_sensorFailures (tick : Bool) (n : Node) : (finish tick n).counters.sensorFailures = n.counters.sensorFailures :=
  have h := congrArg (fun d : Counters => d.sensorFailures) (finish_counters_others tick n)
  h
@[simp] theorem finish_counters_resetRefused (tick : Bool) (n : Node) : (finish tick n).counters.resetRefused = n.counters.resetRefused :=
  have h := congrArg (fun d : Counters => d.resetRefused) (finish_counters_others tick n)
  h

end Node

end Sys2Proof.Machine
end

