-- ==== Sys2Proof/Laws/Settled.lean ====
section
/-! SUPPORT. The consequences of a step come to an end: `settled` leaves none outstanding, in every state. So after every
step the brake outputs follow their commands (R147), the hold causes are in step (R112), and no change of phase is due. -/

namespace Sys2Proof.Machine.Node

/-! ### What the conditions read -/

theorem wantedHolds_congr {m n : Node} (hp : m.cue.permit = n.cue.permit) (hph : m.cue.phase = n.cue.phase)
    (hq : m.cue.queue = n.cue.queue) (hpe : m.peers = n.peers) (hi : m.inputs = n.inputs) (hm : m.monitor = n.monitor)
    (hc : m.cfg = n.cfg) : m.wantedHolds = n.wantedHolds := by
  simp only [wantedHolds, inService, peerSilent, deckClear, seatsStowed, level, headMoves, headMove, headCue, trippedWith,
    liveRecord, channelAction, live, hp, hph, hq, hpe, hi, hm, hc]
  rfl

theorem brakeCommand_congr {m n : Node} {a : Axis} (hf : m.faults = n.faults) (hph : m.cue.phase = n.cue.phase)
    (hq : m.cue.queue = n.cue.queue) (hr : m.cue.ramping = n.cue.ramping)
    (hrel : (m.release a).isSome = (n.release a).isSome) (hpl : m.planner a = n.planner a)
    (hm : m.ringMode = n.ringMode) : m.brakeCommand a = n.brakeCommand a := by
  simp only [brakeCommand, estopLatched, headMoves, headMove, headCue, hf, hph, hq, hr, hrel, hpl, hm]

/-! ### What a brake change does -/

@[simp] theorem setRelease_cue_phase (a : Axis) (r : Option Release) (n : Node) :
    (setRelease n a r).cue.phase = n.cue.phase := by cases a <;> rfl
@[simp] theorem setRelease_cue_queue (a : Axis) (r : Option Release) (n : Node) :
    (setRelease n a r).cue.queue = n.cue.queue := by cases a <;> rfl
@[simp] theorem setRelease_cue_ramping (a : Axis) (r : Option Release) (n : Node) :
    (setRelease n a r).cue.ramping = n.cue.ramping := by cases a <;> rfl
@[simp] theorem setRelease_cue_holds (a : Axis) (r : Option Release) (n : Node) :
    (setRelease n a r).cue.holds = n.cue.holds := by cases a <;> rfl

theorem release_eq {m n : Node} (h : m.cue = n.cue) (a : Axis) : m.release a = n.release a := by
  cases a <;> simp [release, h]

@[simp] theorem reportReleased_cue_phase (a : Axis) (n : Node) : (reportReleased a n).cue.phase = n.cue.phase := by
  unfold reportReleased; split <;> simp
@[simp] theorem reportReleased_cue_queue (a : Axis) (n : Node) : (reportReleased a n).cue.queue = n.cue.queue := by
  unfold reportReleased; split <;> simp
@[simp] theorem reportReleased_cue_ramping (a : Axis) (n : Node) :
    (reportReleased a n).cue.ramping = n.cue.ramping := by
  unfold reportReleased; split <;> simp
@[simp] theorem reportReleased_cue_holds (a : Axis) (n : Node) : (reportReleased a n).cue.holds = n.cue.holds := by
  unfold reportReleased; split <;> simp

/-- A report of release fills no release state that was none (R149). -/
@[simp] theorem reportReleased_isSome (a b : Axis) (n : Node) :
    ((reportReleased a n).release b).isSome = (n.release b).isSome := by
  unfold reportReleased
  split
  · rename_i h
    cases a <;> cases b <;> simp_all [setRelease, release]
  · rfl

@[simp] theorem brakeAgreed_cue_phase (a : Axis) (n : Node) : (brakeAgreed a n).cue.phase = n.cue.phase := by
  unfold brakeAgreed; dsimp only; split <;> simp
@[simp] theorem brakeAgreed_cue_queue (a : Axis) (n : Node) : (brakeAgreed a n).cue.queue = n.cue.queue := by
  unfold brakeAgreed; dsimp only; split <;> simp
@[simp] theorem brakeAgreed_cue_ramping (a : Axis) (n : Node) : (brakeAgreed a n).cue.ramping = n.cue.ramping := by
  unfold brakeAgreed; dsimp only; split <;> simp
@[simp] theorem brakeAgreed_cue_holds (a : Axis) (n : Node) : (brakeAgreed a n).cue.holds = n.cue.holds := by
  unfold brakeAgreed; dsimp only; split <;> simp
@[simp] theorem brakeAgreed_isSome (a b : Axis) (n : Node) :
    ((brakeAgreed a n).release b).isSome = (n.release b).isSome := by
  unfold brakeAgreed; dsimp only; split <;> simp [release_eq (setAxisDrive_cue _ _ _)]
@[simp] theorem brakeAgreed_released (a b : Axis) (n : Node) :
    ((brakeAgreed a n).axisDrive b).released = (n.axisDrive b).released := by
  unfold brakeAgreed; dsimp only; split <;> cases a <;> cases b <;> simp [axisDrive, setAxisDrive]

@[simp] theorem changeBrake_cue_phase (a : Axis) (n : Node) : (changeBrake a n).cue.phase = n.cue.phase := by
  unfold changeBrake; dsimp only; (repeat' split) <;> simp
@[simp] theorem changeBrake_cue_queue (a : Axis) (n : Node) : (changeBrake a n).cue.queue = n.cue.queue := by
  unfold changeBrake; dsimp only; (repeat' split) <;> simp
@[simp] theorem changeBrake_cue_ramping (a : Axis) (n : Node) : (changeBrake a n).cue.ramping = n.cue.ramping := by
  unfold changeBrake; dsimp only; (repeat' split) <;> simp
@[simp] theorem changeBrake_cue_holds (a : Axis) (n : Node) : (changeBrake a n).cue.holds = n.cue.holds := by
  unfold changeBrake; dsimp only; (repeat' split) <;> simp
@[simp] theorem changeBrake_isSome (a b : Axis) (n : Node) :
    ((changeBrake a n).release b).isSome = (n.release b).isSome := by
  unfold changeBrake; dsimp only
  (repeat' split) <;> simp [release_eq (dropDue_cue _ _), release_eq (setAxisDrive_cue _ _ _)]

/-- The output of the brake that changes is turned over. -/
@[simp] theorem changeBrake_released (a : Axis) (n : Node) :
    ((changeBrake a n).axisDrive a).released = !(n.axisDrive a).released := by
  unfold changeBrake; dsimp only
  (repeat' split) <;> cases a <;> simp [axisDrive, setAxisDrive, dropDue]
  all_goals (first | exact brakeAgreed_released .ring .ring _ | exact brakeAgreed_released .tilt .tilt _)

/-- The other brake's output stands. -/
theorem changeBrake_other {a b : Axis} (h : b ≠ a) (n : Node) :
    ((changeBrake a n).axisDrive b).released = (n.axisDrive b).released := by
  unfold changeBrake; dsimp only
  (repeat' split) <;> cases a <;> cases b <;> simp_all [axisDrive, setAxisDrive, dropDue]
  all_goals (first | exact brakeAgreed_released .ring .tilt _ | exact brakeAgreed_released .tilt .ring _)

/-! ### The measure that falls with every consequence -/

/-- How many changes of phase can still follow, at most, from the phase, the queue and the hold causes wanted. -/
def rank (n : Node) : Nat :=
  match n.cue.phase with
  | .starting => 0
  | .configFault => 0
  | .idle => if n.cue.queue.length = 0 then 0 else 2 * n.cue.queue.length + 4
  | .armed => 2 * n.cue.queue.length + 3
  | .moving => 1
  | .holding => if n.wantedHolds = 0 then 2 else 0
  | .stopping => 2 * n.cue.queue.length + 5
  | .settling => 0
  | .done => 2 * n.cue.queue.length + 5
  | .halted => if n.cue.ramping then 1 else 0

/-- How many of the two brakes and the hold causes are out of step. -/
def lag (n : Node) : Nat :=
  (n.brakeCommand .ring != n.drive.ring.released).toNat + (n.brakeCommand .tilt != n.drive.tilt.released).toNat
    + (n.wantedHolds != n.cue.holds).toNat

/-- The measure. -/
def measure (n : Node) : Nat := 4 * n.rank + n.lag

theorem lag_le (n : Node) : n.lag ≤ 3 := by
  unfold lag
  have h (b : Bool) : b.toNat ≤ 1 := by cases b <;> simp
  have := h (n.brakeCommand .ring != n.drive.ring.released)
  have := h (n.brakeCommand .tilt != n.drive.tilt.released)
  have := h (n.wantedHolds != n.cue.holds)
  omega

theorem measure_le (n : Node) : n.measure ≤ Config.chainBound n.cue.queue.length := by
  have h : n.rank ≤ 2 * n.cue.queue.length + 5 := by unfold rank; split <;> (try split) <;> omega
  have := n.lag_le
  unfold measure Config.chainBound
  omega

/-- A change of phase that lowers the rank lowers the measure, whatever it puts out of step. -/
theorem measure_lt_of_rank {m n : Node} (h : m.rank < n.rank) : m.measure < n.measure := by
  have := m.lag_le
  unfold measure
  omega

theorem changeBrake_brakeCommand (a b : Axis) (n : Node) : (changeBrake a n).brakeCommand b = n.brakeCommand b :=
  brakeCommand_congr (changeBrake_faults a n) (changeBrake_cue_phase a n) (changeBrake_cue_queue a n)
    (changeBrake_cue_ramping a n) (changeBrake_isSome a b n) (by cases b <;> simp [planner]) (changeBrake_ringMode a n)

theorem changeBrake_wantedHolds (a : Axis) (n : Node) : (changeBrake a n).wantedHolds = n.wantedHolds :=
  wantedHolds_congr (changeBrake_cue_permit a n) (changeBrake_cue_phase a n) (changeBrake_cue_queue a n)
    (changeBrake_peers a n) (changeBrake_inputs a n) (changeBrake_monitor a n) (changeBrake_cfg a n)

theorem changeBrake_rank (a : Axis) (n : Node) : (changeBrake a n).rank = n.rank := by
  simp [rank, changeBrake_wantedHolds]

/-- A brake that follows its command is out of step no longer, and puts nothing else out of step. -/
theorem changeBrake_measure {a : Axis} {n : Node} (h : n.brakeCommand a ≠ (n.axisDrive a).released) :
    (changeBrake a n).measure < n.measure := by
  have hs := changeBrake_released a n
  cases a
  · have ho : (changeBrake .ring n).drive.tilt.released = n.drive.tilt.released :=
      changeBrake_other (a := .ring) (b := .tilt) (by decide) n
    simp only [axisDrive] at hs h
    unfold measure lag
    rw [changeBrake_rank, changeBrake_brakeCommand, changeBrake_brakeCommand, changeBrake_wantedHolds, ho, hs,
      changeBrake_cue_holds]
    have : (n.brakeCommand .ring != !n.drive.ring.released) = false := by
      revert h; cases n.brakeCommand .ring <;> cases n.drive.ring.released <;> simp
    have h2 : (n.brakeCommand .ring != n.drive.ring.released) = true := by simpa using h
    rw [this, h2]
    simp
  · have ho : (changeBrake .tilt n).drive.ring.released = n.drive.ring.released :=
      changeBrake_other (a := .tilt) (b := .ring) (by decide) n
    simp only [axisDrive] at hs h
    unfold measure lag
    rw [changeBrake_rank, changeBrake_brakeCommand, changeBrake_brakeCommand, changeBrake_wantedHolds, ho, hs,
      changeBrake_cue_holds]
    have : (n.brakeCommand .tilt != !n.drive.tilt.released) = false := by
      revert h; cases n.brakeCommand .tilt <;> cases n.drive.tilt.released <;> simp
    have h2 : (n.brakeCommand .tilt != n.drive.tilt.released) = true := by simpa using h
    rw [this, h2]
    simp

/-- Only the hold causes and the mark of a status event change when the hold causes are written. -/
theorem setHolds_eq (h : HoldSet) (n : Node) :
    ∃ b, setHolds h n = { n with cue := { n.cue with holds := h }, statusEvent := b } := by
  unfold setHolds
  split
  · rename_i e; exact ⟨n.statusEvent, by subst e; rfl⟩
  · unfold note; split
    · exact ⟨n.statusEvent, rfl⟩
    · exact ⟨true, rfl⟩

theorem setHolds_measure {n : Node} (h : n.wantedHolds ≠ n.cue.holds) :
    (setHolds n.wantedHolds n).measure < n.measure := by
  obtain ⟨b, e⟩ := setHolds_eq n.wantedHolds n
  rw [e]
  have hr : ({ n with cue := { n.cue with holds := n.wantedHolds }, statusEvent := b } : Node).rank = n.rank := rfl
  have hl : ({ n with cue := { n.cue with holds := n.wantedHolds }, statusEvent := b } : Node).lag
      = (n.brakeCommand .ring != n.drive.ring.released).toNat + (n.brakeCommand .tilt != n.drive.tilt.released).toNat
        + (n.wantedHolds != n.wantedHolds).toNat := rfl
  have h2 : (n.wantedHolds != n.cue.holds) = true := by simpa using h
  have h3 : n.lag = (n.brakeCommand .ring != n.drive.ring.released).toNat
      + (n.brakeCommand .tilt != n.drive.tilt.released).toNat + 1 := by unfold lag; rw [h2]; rfl
  unfold measure
  rw [hr, hl, h3, bne_self_eq_false]
  simp only [Bool.toNat_false]
  omega

/-! ### What the changes of phase do to the phase and the queue -/

@[simp] theorem pushRetired_cue_phase (id : CueId) (e : CueEnd) (n : Node) :
    (pushRetired id e n).cue.phase = n.cue.phase := rfl
@[simp] theorem pushRetired_cue_queue (id : CueId) (e : CueEnd) (n : Node) :
    (pushRetired id e n).cue.queue = n.cue.queue := rfl
@[simp] theorem retireHead_cue_phase (e : CueEnd) (n : Node) : (retireHead e n).cue.phase = n.cue.phase := by
  unfold retireHead; split <;> simp
@[simp] theorem retireHead_cue_queue (e : CueEnd) (n : Node) : (retireHead e n).cue.queue = n.cue.queue.tail := by
  unfold retireHead; split <;> simp_all
@[simp] theorem setRefusal_cue_phase (id : CueId) (r : CueReason) (n : Node) :
    (setRefusal id r n).cue.phase = n.cue.phase := by unfold setRefusal; split <;> simp
@[simp] theorem setRefusal_cue_queue (id : CueId) (r : CueReason) (n : Node) :
    (setRefusal id r n).cue.queue = n.cue.queue := by unfold setRefusal; split <;> simp
@[simp] theorem setPhase_cue_queue (p : Phase) (n : Node) : (setPhase p n).cue.queue = n.cue.queue := by
  unfold setPhase; dsimp only; split <;> simp
@[simp] theorem setPhase_cue_ramping (p : Phase) (n : Node) : (setPhase p n).cue.ramping = n.cue.ramping := by
  unfold setPhase; dsimp only; split <;> simp
@[simp] theorem setPhase_cue_holds (p : Phase) (n : Node) : (setPhase p n).cue.holds = n.cue.holds := by
  unfold setPhase; dsimp only; split <;> simp
@[simp] theorem failHead_cue_phase (r : CueReason) (n : Node) : (failHead r n).cue.phase = .idle := by
  unfold failHead; dsimp only; split
  · assumption
  · exact setPhase_phase _ _
@[simp] theorem failHead_cue_queue (r : CueReason) (n : Node) : (failHead r n).cue.queue = n.cue.queue.tail := by
  unfold failHead; dsimp only; split <;> simp
@[simp] theorem requestHalt_cue_phase (k : FaultKind) (n : Node) : (requestHalt k n).cue.phase = n.cue.phase := by
  unfold requestHalt; split <;> rfl
@[simp] theorem requestHalt_cue_ramping (k : FaultKind) (n : Node) :
    (requestHalt k n).cue.ramping = n.cue.ramping := by unfold requestHalt; split <;> rfl
@[simp] theorem requestHalt_cue_queue (k : FaultKind) (n : Node) : (requestHalt k n).cue.queue = n.cue.queue := by
  unfold requestHalt; split <;> rfl
@[simp] theorem writeHaltRecord_cue_phase (o : Nat) (r : HaltReason) (n : Node) :
    (writeHaltRecord o r n).cue.phase = n.cue.phase := rfl
@[simp] theorem markHead_cue_phase (b : Bool) (n : Node) : (markHead b n).cue.phase = n.cue.phase := by
  unfold markHead; split <;> rfl
@[simp] theorem enterHalted_cue_phase (n : Node) : (enterHalted n).cue.phase = .halted := by
  unfold enterHalted; exact setPhase_phase _ _

/-- A raise leaves the phase, or takes it to HALTED (R117, R119, R120). -/
theorem raise_cue_phase (k : FaultKind) (n : Node) :
    (raise k n).cue.phase = n.cue.phase ∨ (raise k n).cue.phase = .halted := by
  unfold raise; dsimp only
  (repeat' split) <;> simp

theorem raiseIf_cue_phase (b : Bool) (k : FaultKind) (n : Node) :
    (raiseIf b k n).cue.phase = n.cue.phase ∨ (raiseIf b k n).cue.phase = .halted := by
  unfold raiseIf; split
  · exact raise_cue_phase k n
  · exact .inl rfl

/-- The entry to MOVING ends in MOVING, or in HALTED where Tow Logic judges the towed set (R139). -/
theorem enterMoving_cue_phase (n : Node) :
    (enterMoving n).cue.phase = .moving ∨ (enterMoving n).cue.phase = .halted := by
  unfold enterMoving superviseTow
  rcases raiseIf_cue_phase _ .tow (setPhase .moving (startAxis .tilt (startAxis .ring (markHead false n)))) with h | h
  · exact .inl (h.trans (setPhase_phase _ _))
  · exact .inr h

@[simp] theorem enterSettling_cue_phase (n : Node) : (enterSettling n).cue.phase = .settling := by
  simp [enterSettling]
@[simp] theorem enterArmed_cue_phase (n : Node) : (enterArmed n).cue.phase = .armed := by
  simp [enterArmed]
@[simp] theorem enterArmed_cue_queue (n : Node) : (enterArmed n).cue.queue = n.cue.queue := by
  simp [enterArmed]
@[simp] theorem retireDone_cue_phase (n : Node) : (retireDone n).cue.phase = .idle := by simp [retireDone]
@[simp] theorem retireDone_cue_queue (n : Node) : (retireDone n).cue.queue = n.cue.queue.tail := by simp [retireDone]

/-! ### The end of the chain -/

theorem rank_moving_or_halted {n : Node} (h : n.cue.phase = .moving ∨ n.cue.phase = .halted) : n.rank ≤ 1 := by
  unfold rank
  rcases h with h | h <;> simp only [h] <;> (try split) <;> omega

theorem rank_idle {n : Node} (h : n.cue.phase = .idle) :
    n.rank ≤ 2 * n.cue.queue.length + 4 ∧ (n.cue.queue = [] → n.rank = 0) := by
  unfold rank
  simp only [h]
  constructor
  · split <;> omega
  · intro e; simp [e]

/-- A change of phase that the conditions bring lowers the rank, when the hold causes are in step. -/
theorem phaseConsequence_rank {tick : Bool} {n : Node} {c : Consequence} (hc : n.phaseConsequence tick = some c)
    (hh : n.wantedHolds = n.cue.holds) : (applyConsequence c n).rank < n.rank := by
  unfold phaseConsequence at hc
  have tailLen : n.cue.queue.tail.length = n.cue.queue.length - 1 := List.length_tail
  -- a step that ends in IDLE with the queue's tail
  have toIdle : ∀ m : Node, m.cue.phase = .idle → m.cue.queue = n.cue.queue.tail →
      2 * n.cue.queue.length + 3 ≤ n.rank → m.rank < n.rank := by
    intro m hp hq hr
    have ⟨h1, h2⟩ := rank_idle hp
    by_cases e : n.cue.queue.tail = []
    · have := h2 (hq.trans e); omega
    · have : n.cue.queue.tail.length ≠ 0 := by rw [Ne, List.length_eq_zero_iff]; exact e
      rw [hq] at h1; omega
  split at hc
  · cases hc
  · cases hc
  · rename_i hp
    split at hc
    · rename_i hg
      cases hc
      have hne : n.cue.queue ≠ [] := by
        intro e; simp [headCue, e] at hg
      have hlen : n.cue.queue.length ≠ 0 := by simpa using hne
      have hr : n.rank = 2 * n.cue.queue.length + 4 := by unfold rank; simp only [hp]; rw [if_neg hlen]
      simp only [applyConsequence]
      split
      · have : (enterArmed n).rank = 2 * n.cue.queue.length + 3 := by unfold rank; simp
        omega
      · exact toIdle _ (failHead_cue_phase _ _) (failHead_cue_queue _ _) (by omega)
    · cases hc
  · rename_i hp
    have hr : n.rank = 2 * n.cue.queue.length + 3 := by unfold rank; simp only [hp]
    split at hc
    · cases hc
      exact toIdle _ (failHead_cue_phase _ _) (failHead_cue_queue _ _) (by omega)
    · split at hc
      · cases hc
        have := rank_moving_or_halted (enterMoving_cue_phase n)
        simp only [applyConsequence]; omega
      · cases hc
  · rename_i hp
    have hr : n.rank = 1 := by unfold rank; simp only [hp]
    split at hc
    · rename_i hne
      cases hc
      have hw : (setPhase .holding n).wantedHolds = n.wantedHolds := by
        have e : ∀ p : Phase, p.inService = n.cue.phase.inService →
            (setPhase p n).wantedHolds = n.wantedHolds := by
          intro p hps
          unfold wantedHolds
          simp only [inService, peerSilent, deckClear, seatsStowed, level, headMoves, headMove, headCue, trippedWith,
            liveRecord, channelAction, live, setPhase_phase, setPhase_cue_queue, setPhase_cue_permit, setPhase_peers,
            setPhase_inputs, setPhase_monitor, setPhase_cfg, hps]
          rfl
        exact e _ (by rw [hp]; rfl)
      have : (setPhase .holding n).rank = 0 := by
        unfold rank; simp only [setPhase_phase]
        rw [if_neg]
        rw [hw, hh]; simpa using hne
      simp only [applyConsequence]; omega
    · split at hc
      · cases hc
        have : (enterSettling n).rank = 0 := by unfold rank; simp
        simp only [applyConsequence]; omega
      · cases hc
  · rename_i hp
    split at hc
    · rename_i hg
      cases hc
      have h0 : n.cue.holds = 0 := by simp at hg; exact hg.1.1
      have hr : n.rank = 2 := by unfold rank; simp only [hp]; rw [hh, if_pos h0]
      have := rank_moving_or_halted (n := setPhase .moving n) (.inl (setPhase_phase _ _))
      simp only [applyConsequence]; omega
    · cases hc
  · rename_i hp
    have hr : n.rank = 2 * n.cue.queue.length + 5 := by unfold rank; simp only [hp]
    split at hc
    · cases hc
      exact toIdle _ (by simp [applyConsequence]) (by simp [applyConsequence]) (by omega)
    · cases hc
  · cases hc
  · rename_i hp
    have hr : n.rank = 2 * n.cue.queue.length + 5 := by unfold rank; simp only [hp]
    split at hc
    · cases hc
      exact toIdle _ (retireDone_cue_phase _) (retireDone_cue_queue _) (by omega)
    · cases hc
  · rename_i hp
    split at hc
    · rename_i hg
      cases hc
      have hr : n.rank = 1 := by unfold rank; simp only [hp]; rw [if_pos]; simp at hg; exact hg.1.1
      have : (applyConsequence .rampEnd n).rank = 0 := by
        unfold rank; simp [applyConsequence, hp]
      omega
    · cases hc

/-- Every consequence lowers the measure. -/
theorem nextConsequence_measure {tick : Bool} {n : Node} {c : Consequence} (hc : n.nextConsequence tick = some c) :
    (applyConsequence c n).measure < n.measure := by
  unfold nextConsequence at hc
  split at hc
  · rename_i h; cases hc; exact changeBrake_measure (a := .ring) (by simpa [axisDrive] using h)
  · split at hc
    · rename_i h; cases hc; exact changeBrake_measure (a := .tilt) (by simpa [axisDrive] using h)
    · split at hc
      · rename_i h; cases hc; exact setHolds_measure (by simpa using h)
      · rename_i h; exact measure_lt_of_rank (phaseConsequence_rank hc (by simpa using h))

theorem settle_done (tick : Bool) : ∀ (fuel : Nat) (n : Node), n.measure ≤ fuel →
    (settle tick fuel n).nextConsequence tick = none
  | 0, n, h => by
    unfold settle
    cases hc : n.nextConsequence tick with
    | none => rfl
    | some c => have := nextConsequence_measure hc; omega
  | fuel + 1, n, h => by
    unfold settle
    split
    · assumption
    · rename_i c hc
      have := nextConsequence_measure hc
      exact settle_done tick fuel _ (by omega)

/-- After the consequences of a step, none is outstanding, in every state. -/
theorem settled_done (tick : Bool) (n : Node) : (settled tick n).nextConsequence tick = none :=
  settle_done tick _ n n.measure_le

/-- Any two bounds no chain reaches give the same. -/
theorem settle_enough {tick : Bool} : ∀ (f g : Nat) (n : Node), n.measure ≤ f → n.measure ≤ g →
    settle tick f n = settle tick g n
  | 0, 0, _, _, _ => rfl
  | 0, g + 1, n, h, _ => by
    conv_rhs => unfold settle
    cases hc : n.nextConsequence tick with
    | none => rfl
    | some c => have := nextConsequence_measure hc; omega
  | f + 1, 0, n, _, h => by
    conv_lhs => unfold settle
    cases hc : n.nextConsequence tick with
    | none => rfl
    | some c => have := nextConsequence_measure hc; omega
  | f + 1, g + 1, n, hf, hg => by
    unfold settle
    cases hc : n.nextConsequence tick with
    | none => rfl
    | some c =>
      have := nextConsequence_measure hc
      exact settle_enough f g _ (by omega) (by omega)

/-- The consequences of a step begin with the one that comes next. -/
theorem settled_next {tick : Bool} {n : Node} {c : Consequence} (h : n.nextConsequence tick = some c) :
    settled tick n = settled tick (applyConsequence c n) := by
  have hm := nextConsequence_measure h
  have hn := n.measure_le
  unfold settled
  rw [show Config.chainBound n.cue.queue.length = (8 * n.cue.queue.length + 23) + 1 from rfl] at hn ⊢
  conv_lhs => unfold settle
  rw [h]
  exact settle_enough _ _ _ (by omega) (measure_le _)

/-- Nothing happens of itself to a part with no consequence outstanding. -/
theorem settled_of_none {tick : Bool} {n : Node} (h : n.nextConsequence tick = none) : settled tick n = n := by
  unfold settled Config.chainBound
  rw [show 8 * n.cue.queue.length + 24 = (8 * n.cue.queue.length + 23) + 1 from rfl]
  unfold settle
  rw [h]

/-- The conditions read neither the mark of a status event nor the mark of a pending build. -/
theorem nextConsequence_marks (tick b c : Bool) (n : Node) :
    ({ n with statusEvent := b, peers := { n.peers with pendingBuild := c } } : Node).nextConsequence tick
      = n.nextConsequence tick := rfl

/-- After a step, none is outstanding, in every state. -/
theorem finish_done (tick : Bool) (n : Node) : (finish tick n).nextConsequence tick = none := by
  unfold finish
  dsimp only
  split
  · split
    · split
      · exact (nextConsequence_marks tick false true _).trans (settled_done _ _)
      · exact settled_done _ _
    · exact (nextConsequence_marks tick false true _).trans (settled_done _ _)
  · exact settled_done _ _

/-- A step that brings nothing with it ends as its own effect left it. -/
theorem finish_of_none {n : Node} (h : n.nextConsequence false = none) (he : n.statusEvent = false) :
    finish false n = n := by
  unfold finish
  simp [settled_of_none h, he]

/-- In a part whose phase has no consequence of its own, only brakes and hold causes follow. -/
theorem settled_quiet {P : Node → Prop} {tick : Bool} (hp : ∀ n, P n → n.phaseConsequence tick = none)
    (hb : ∀ a n, P n → P (changeBrake a n)) (hh : ∀ h n, P n → P (setHolds h n)) (n : Node) (h : P n) :
    P (settled tick n) := by
  refine settled_induct_of ?_ n h
  intro c m hc hm
  unfold nextConsequence at hc
  split at hc
  · cases hc; exact hb _ _ hm
  split at hc
  · cases hc; exact hb _ _ hm
  split at hc
  · cases hc; exact hh _ _ hm
  rw [hp m hm] at hc; cases hc

/-- In a part at rest every brake output is as commanded (R147). -/
theorem released_of_calm {tick : Bool} {n : Node} (h : n.nextConsequence tick = none) (a : Axis) :
    (n.axisDrive a).released = n.brakeCommand a := by
  unfold nextConsequence at h
  split at h
  · cases h
  split at h
  · cases h
  cases a <;> simp_all [axisDrive]

/-- In a part at rest the hold causes are in step (R112). -/
theorem holds_of_calm {tick : Bool} {n : Node} (h : n.nextConsequence tick = none) : n.cue.holds = n.wantedHolds := by
  unfold nextConsequence at h
  split at h
  · cases h
  split at h
  · cases h
  split at h
  · cases h
  · rename_i hh; simpa using (Eq.symm (by simpa using hh))

end Sys2Proof.Machine.Node
end

