-- ==== Sys2Proof/Laws/Exec.lean ====
section
/-! SUPPORT. The induction over a step, packaged once: what every effect, every consequence and the build keep, every
command keeps. -/

namespace Sys2Proof.Machine

namespace Node

/-- Everything a step is made of keeps `P`: the effects of the commands, the blocks of the tick, the consequences that come
next, the build and the marks. -/
structure StepClosed (P : Node → Prop) : Prop where
  consequence : ∀ tick c n, n.nextConsequence tick = some c → P n → P (applyConsequence c n)
  build : ∀ n, P n → P (build n)
  mark : ∀ n b, P n → P { n with statusEvent := b }
  pend : ∀ n b, P n → P { n with peers := { n.peers with pendingBuild := b } }
  allow : ∀ n, P n → P (allow n)
  deliver : ∀ n, P n → P (deliverHalt n)
  due : ∀ d n, P n → P (takeDue d n)
  block : ∀ b n, (∀ d, b ≠ .expiry d) → (∀ r, b ≠ .conversion r) → P n → P (runBlock b n)
  powerOn : ∀ straps pins, P (powerOn straps pins)
  holdReset : ∀ n, P n → P (holdReset n)
  configReadStart : ∀ n, P n → P (configReadStart n)
  configReadComplete : ∀ bytes n, P n → P (configReadComplete bytes n)
  completeExchange : ∀ reply n, P n → P (completeExchange reply n)
  completeRead : ∀ a v n, P n → P (completeRead a v n)
  convert : ∀ r n, P n → P (convert r n)
  changeLevel : ∀ i l n, P n → P (changeLevel i l n)
  frameEnd : ∀ bytes part n, P n → P (frameEnd bytes part n)
  frameComplete : ∀ n, P n → P (frameComplete n)
  status : ∀ n, P n → P (applyStatus n)
  cue : ∀ n, P n → P (applyCue n)
  permit : ∀ n, P n → P (applyPermit n)
  clearLatch : ∀ n, P n → P (applyClearLatch n)
  clearFault : ∀ n, P n → P (applyClearFault n)
  clearTow : ∀ n, P n → P (applyClearTow n)
  cancel : ∀ n, P n → P (applyCancel n)
  inquire : ∀ n, P n → P (applyInquire n)
  straps : ∀ n straps, P n → P { n with cfg := { n.cfg with strapPins := straps } }
  reset : ∀ n, P n → P (applyReset n)
  arbiterStart : ∀ q n, P n → P (arbiterStart q n)
  transmitSuccess : ∀ n, P n → P (transmitSuccess n)
  collision : ∀ c n, P n → P (collision c n)
  jamEnd : ∀ n, P n → P (jamEnd n)
  backoffEnd : ∀ k n, P n → P (backoffEnd k n)
  burstStart : ∀ n, P n → P (burstStart n)
  startByteFound : ∀ n, P n → P (startByteFound n)
  alterLiveCopy : ∀ a v n, P n → P (alterLiveCopy a v n)

/-- What each step of a fold keeps, the fold keeps. -/
theorem foldl_keeps {α : Type} {P : Node → Prop} (f : Node → α → Node) (h : ∀ n x, P n → P (f n x)) :
    ∀ (l : List α) (n : Node), P n → P (l.foldl f n)
  | [], _, hn => hn
  | x :: l, n, hn => foldl_keeps f h l _ (h n x hn)

/-- What the single link completions keep, their forced completion keeps. -/
theorem forceLinks_keeps {P : Node → Prop} (hx : ∀ n, P n → P (completeExchange none n))
    (hr : ∀ a n, P n → P (finish false (completeRead a none n))) (n : Node) (h : P n) : P (forceLinks n) := by
  unfold forceLinks
  have keepIf (b : Bool) (f : Node → Node) (hf : ∀ n, P n → P (f n)) (n : Node) (hn : P n) :
      P (if b = true then f n else n) := by
    split
    · exact hf n hn
    · exact hn
  exact keepIf _ _ (hr .tilt) _ (keepIf _ _ (hr .ring) _ (keepIf _ _ hx _ h))

namespace StepClosed

variable {P : Node → Prop} (hP : StepClosed P)
include hP

theorem settled (tick : Bool) (n : Node) (h : P n) : P (Node.settled tick n) :=
  settled_induct_of (hP.consequence tick) n h

theorem finish (tick : Bool) (n : Node) (h : P n) : P (Node.finish tick n) :=
  finish_induct_of (hP.consequence tick) hP.build hP.mark hP.pend n h

theorem deliverHalts (n : Node) (h : P n) : P (Node.deliverHalts n) :=
  foldl_keeps _ (fun m _ hm => hP.finish false _ (hP.deliver m hm)) _ n h

theorem runBlock (b : TickBlock) (n : Node) (h : P n) : P (Node.runBlock b n) := by
  cases b with
  | expiry d => exact hP.finish false _ (hP.due d n h)
  | conversion r => exact hP.finish false _ (hP.convert r n h)
  | _ => exact hP.block _ n (fun d => nofun) (fun r => nofun) h

theorem forceHead (n : Node) (h : P n) : P (Node.forceHead n) := by
  unfold Node.forceHead
  split
  · exact h
  · split
    · exact hP.frameComplete n h
    · split
      · exact hP.finish _ _ (hP.status n h)
      · exact hP.finish _ _ (hP.cue n h)
      · exact hP.finish _ _ (hP.permit n h)
      · exact hP.finish _ _ (hP.clearTow _ (hP.finish _ _ (hP.clearFault _ (hP.finish _ _ (hP.clearLatch n h)))))
      · exact hP.finish _ _ (hP.cancel n h)
      · exact hP.finish _ _ (hP.inquire n h)
      · exact hP.finish _ _ (hP.reset n h)
      · exact h

theorem controlTick (order : List TickBlock) (n : Node) (h : P n) : P (Node.controlTick order n) := by
  unfold Node.controlTick
  refine hP.finish true _ (foldl_keeps _ (fun m b hm => hP.settled true _ (hP.runBlock b m hm)) _ _ (hP.allow _ ?_))
  refine hP.forceHead _ (forceLinks_keeps (hP.completeExchange none)
    (fun a n h => hP.finish _ _ (hP.completeRead a none n h)) _ ?_)
  exact foldl_keeps _ (fun m d hm => hP.finish false _ (hP.due d m hm)) _ n h

theorem takeStep {effect : Node → Node} (he : ∀ n, P n → P (effect n)) {s t : State}
    (ht : Machine.takeStep effect s = .next t) (h : P s.node) : P t.node := by
  unfold Machine.takeStep at ht
  cases ht
  split
  · exact h
  · exact hP.finish false _ (he _ (hP.deliverHalts _ h))

/-- What everything a step is made of keeps, every command keeps. -/
theorem exec (c : Instr) {s t : State} (ht : Machine.exec c s = .next t) (h : P s.node) : P t.node := by
  cases c with
  | powerOn straps pins => cases ht; exact hP.powerOn straps pins
  | rstnHeldLow => cases ht; exact hP.holdReset _ h
  | controlTick order =>
    unfold Machine.exec Machine.execControlTick at ht
    cases ht
    split
    · exact h
    · exact hP.controlTick order _ (hP.deliverHalts _ h)
  | halt =>
    unfold Machine.exec Machine.execHalt at ht
    cases ht
    split
    · exact h
    · exact hP.finish false _ (hP.deliver _ h)
  | configReadStart => exact hP.takeStep hP.configReadStart ht h
  | configReadComplete bytes => exact hP.takeStep (hP.configReadComplete bytes) ht h
  | driveExchangeComplete reply => exact hP.takeStep (hP.completeExchange reply) ht h
  | sensorReadComplete a v => exact hP.takeStep (hP.completeRead a v) ht h
  | statusPeriodExpiry => exact hP.takeStep (hP.due .statusPeriod) ht h
  | peerEntryStale st => exact hP.takeStep (hP.due (.peerStale st)) ht h
  | peerEntryLost st => exact hP.takeStep (hP.due (.peerLost st)) ht h
  | armTimerExpiry => exact hP.takeStep (hP.due .arm) ht h
  | permitTimerExpiry => exact hP.takeStep (hP.due .permit) ht h
  | brakeTimerExpiry a => exact hP.takeStep (hP.due (.brake a)) ht h
  | recheckTimerExpiry => exact hP.takeStep (hP.due .recheck) ht h
  | pinchLimit a => exact hP.takeStep (hP.due (.pinch a)) ht h
  | settleCountReached => exact hP.takeStep (hP.due .settle) ht h
  | monitorConversion r => exact hP.takeStep (hP.convert r) ht h
  | monitorTrip c => exact hP.takeStep (hP.due (.trip c)) ht h
  | monitorUntrip c => exact hP.takeStep (hP.due (.untrip c)) ht h
  | inputLevelChange i l => exact hP.takeStep (hP.changeLevel i l) ht h
  | frameEnd bytes part => exact hP.takeStep (hP.frameEnd bytes part) ht h
  | frameComplete => exact hP.takeStep hP.frameComplete ht h
  | status => exact hP.takeStep hP.status ht h
  | cue => exact hP.takeStep hP.cue ht h
  | permit => exact hP.takeStep hP.permit ht h
  | clearLatchPart => exact hP.takeStep hP.clearLatch ht h
  | clearFaultPart => exact hP.takeStep hP.clearFault ht h
  | clearTowPart => exact hP.takeStep hP.clearTow ht h
  | cancel => exact hP.takeStep hP.cancel ht h
  | inquire => exact hP.takeStep hP.inquire ht h
  | reset straps => exact hP.takeStep (fun n hn => hP.reset _ (hP.straps n straps hn)) ht h
  | arbiterStart q => exact hP.takeStep (hP.arbiterStart q) ht h
  | transmitSuccess => exact hP.takeStep hP.transmitSuccess ht h
  | collision c => exact hP.takeStep (hP.collision c) ht h
  | jamEnd => exact hP.takeStep hP.jamEnd ht h
  | backoffEnd k => exact hP.takeStep (hP.backoffEnd k) ht h
  | burstStart => exact hP.takeStep hP.burstStart ht h
  | startByteFound => exact hP.takeStep hP.startByteFound ht h
  | liveCopyAlteration a v => exact hP.takeStep (hP.alterLiveCopy a v) ht h

end StepClosed

end Node

end Sys2Proof.Machine
end

