-- ==== Sys2Proof/Laws/Line.lean ====
section
/-! SUPPORT. What the smaller operations of the Line Unit, of the CLEAR's parts and of the configuration read leave as it was:
one lemma per field, and one that says once everything each can do. -/

namespace Sys2Proof.Machine

/-- Every byte is eight cells (R1). -/
theorem lineCells_length (l : List Byte) : (lineCells l).length = 8 * l.length := by
  induction l with
  | nil => rfl
  | cons b l ih =>
    have hs : lineCells (b :: l) =
        [7, 6, 5, 4, 3, 2, 1, 0].map (fun i : Nat => lineCell (b.getLsbD i)) ++ lineCells l := rfl
    rw [hs, List.length_append, ih]
    simp only [List.length_map, List.length_cons, List.length_nil]
    omega

/-! ### beginRead -/

@[simp] theorem Cfg.beginRead_strapPins (c : Cfg) : c.beginRead.strapPins = c.strapPins := rfl
@[simp] theorem Cfg.beginRead_straps (c : Cfg) : c.beginRead.straps = c.straps := rfl
@[simp] theorem Cfg.beginRead_raw (c : Cfg) : c.beginRead.raw = c.raw := rfl
@[simp] theorem Cfg.beginRead_live (c : Cfg) : c.beginRead.live = c.live := rfl
@[simp] theorem Cfg.beginRead_status (c : Cfg) : c.beginRead.status = c.status := rfl
@[simp] theorem Cfg.beginRead_startDigest (c : Cfg) : c.beginRead.startDigest = c.startDigest := rfl
@[simp] theorem Cfg.beginRead_lastDigest (c : Cfg) : c.beginRead.lastDigest = c.lastDigest := rfl
@[simp] theorem Cfg.beginRead_recheck (c : Cfg) : c.beginRead.recheck = c.recheck := rfl
@[simp] theorem Cfg.beginRead_read (c : Cfg) : c.beginRead.read = .reading := rfl
@[simp] theorem Cfg.beginRead_mcsLow (c : Cfg) : c.beginRead.mcsLow = true := rfl
@[simp] theorem Cfg.beginRead_msi (c : Cfg) : c.beginRead.msi = readCommand := rfl

namespace Node

/-! ### ownCells -/

@[simp] theorem ownCells_rstnLow (n : Node) : (ownCells n).rstnLow = n.rstnLow := rfl
@[simp] theorem ownCells_tx (n : Node) : (ownCells n).tx = n.tx := rfl
@[simp] theorem ownCells_peers (n : Node) : (ownCells n).peers = n.peers := rfl
@[simp] theorem ownCells_cue (n : Node) : (ownCells n).cue = n.cue := rfl
@[simp] theorem ownCells_ring (n : Node) : (ownCells n).ring = n.ring := rfl
@[simp] theorem ownCells_tilt (n : Node) : (ownCells n).tilt = n.tilt := rfl
@[simp] theorem ownCells_supplyScale (n : Node) : (ownCells n).supplyScale = n.supplyScale := rfl
@[simp] theorem ownCells_ringMode (n : Node) : (ownCells n).ringMode = n.ringMode := rfl
@[simp] theorem ownCells_faults (n : Node) : (ownCells n).faults = n.faults := rfl
@[simp] theorem ownCells_drive (n : Node) : (ownCells n).drive = n.drive := rfl
@[simp] theorem ownCells_inputs (n : Node) : (ownCells n).inputs = n.inputs := rfl
@[simp] theorem ownCells_monitor (n : Node) : (ownCells n).monitor = n.monitor := rfl
@[simp] theorem ownCells_cfg (n : Node) : (ownCells n).cfg = n.cfg := rfl
@[simp] theorem ownCells_reportCount (n : Node) : (ownCells n).reportCount = n.reportCount := rfl
@[simp] theorem ownCells_counters (n : Node) : (ownCells n).counters = n.counters := rfl
@[simp] theorem ownCells_due (n : Node) : (ownCells n).due = n.due := rfl
@[simp] theorem ownCells_statusEvent (n : Node) : (ownCells n).statusEvent = n.statusEvent := rfl
@[simp] theorem ownCells_quietTime (n : Node) : (ownCells n).rx.quietTime = 0 := rfl
@[simp] theorem ownCells_mode (n : Node) : (ownCells n).rx.mode = n.rx.mode := rfl
@[simp] theorem ownCells_ownBurst (n : Node) : (ownCells n).rx.ownBurst = n.rx.ownBurst := rfl
@[simp] theorem ownCells_queue (n : Node) : (ownCells n).rx.queue = n.rx.queue := rfl
@[simp] theorem ownCells_head (n : Node) : (ownCells n).rx.head = n.rx.head := rfl
@[simp] theorem ownCells_halts (n : Node) : (ownCells n).rx.halts = n.rx.halts := rfl
@[simp] theorem ownCells_clashAge (n : Node) : (ownCells n).rx.clashAge = n.rx.clashAge := rfl

/-- Quiet cells only raise the quiet time (R1). -/
theorem quietAt_ge (n : Node) (q : BitVec 8) :
    n.rx.quietTime.toNat ≤ (n.quietAt q).toNat ∧ q.toNat ≤ (n.quietAt q).toNat := by
  unfold quietAt; split <;> omega

/-! ### clearTow -/

@[simp] theorem clearTow_rstnLow (n : Node) : (clearTow n).rstnLow = n.rstnLow := by unfold clearTow; split <;> simp
@[simp] theorem clearTow_tx (n : Node) : (clearTow n).tx = n.tx := by unfold clearTow; split <;> simp
@[simp] theorem clearTow_peers (n : Node) : (clearTow n).peers = n.peers := by unfold clearTow; split <;> simp
@[simp] theorem clearTow_cue (n : Node) : (clearTow n).cue = n.cue := by unfold clearTow; split <;> simp
@[simp] theorem clearTow_tilt (n : Node) : (clearTow n).tilt = n.tilt := by unfold clearTow; split <;> simp
@[simp] theorem clearTow_supplyScale (n : Node) : (clearTow n).supplyScale = n.supplyScale := by unfold clearTow; split <;> simp
@[simp] theorem clearTow_faults (n : Node) : (clearTow n).faults = n.faults := by unfold clearTow; split <;> simp
@[simp] theorem clearTow_drive (n : Node) : (clearTow n).drive = n.drive := by unfold clearTow; split <;> simp
@[simp] theorem clearTow_inputs (n : Node) : (clearTow n).inputs = n.inputs := by unfold clearTow; split <;> simp
@[simp] theorem clearTow_monitor (n : Node) : (clearTow n).monitor = n.monitor := by unfold clearTow; split <;> simp
@[simp] theorem clearTow_cfg (n : Node) : (clearTow n).cfg = n.cfg := by unfold clearTow; split <;> simp
@[simp] theorem clearTow_reportCount (n : Node) : (clearTow n).reportCount = n.reportCount := by unfold clearTow; split <;> simp
@[simp] theorem clearTow_counters (n : Node) : (clearTow n).counters = n.counters := by unfold clearTow; split <;> simp
@[simp] theorem clearTow_due (n : Node) : (clearTow n).due = n.due := by unfold clearTow; split <;> simp

/-- The tow part changes nothing, or returns a towed wagon to DRIVEN, with the ring planner's direction alone touched (R136). -/
theorem clearTow_cases (n : Node) :
    clearTow n = n
      ∨ n.ringMode = .towed ∧ (clearTow n).ringMode = .driven
        ∧ (clearTow n).rx.head = { n.rx.head with breach := some n.towBreach }
        ∧ (clearTow n).ring.setpoint = n.ring.setpoint ∧ (clearTow n).ring.velocity = n.ring.velocity
        ∧ (clearTow n).ring.target = n.ring.target ∧ (clearTow n).ring.pinch = n.ring.pinch := by
  unfold clearTow
  split
  · next h => exact .inr ⟨h.2.1, by simp, by simp, by simp, by simp, by simp, by simp⟩
  · exact .inl rfl

end Node

end Sys2Proof.Machine
end

