-- ==== Sys2Proof/Laws/Steps.lean ====
section
/-! SUPPORT. How a step ends, for a part that was at rest: what an effect with no consequence leaves, and what one with a
status event leaves (R50). -/

namespace Sys2Proof.Machine

namespace Node

/-- A calm part with a status event marked announces it. -/
theorem finish_of_settles {m : Node} (h : m.Settles) : finish false { m with statusEvent := true } = m.announced := by
  obtain ⟨he, hc, ha, hb⟩ := h
  have hn : ({ m with statusEvent := true } : Node).nextConsequence false = none := hc
  have hm : ({ m with statusEvent := false } : Node) = m := by rw [← he]
  unfold finish
  dsimp only
  rw [settled_of_none hn]
  unfold announced at ha hb ⊢
  simp only [Bool.true_or, if_true]
  split
  · rename_i hal
    rw [if_pos (by exact hal)] at ha hb
    rw [hm, settled_of_none ha]
    simp [hb]
  · rw [← hm]

/-- The same after consequences that come to `m`. -/
theorem finish_of_settled {n m : Node} (hs : settled false n = { m with statusEvent := true }) (h : m.Settles) :
    finish false n = m.announced := by
  have e : finish false n = finish false { m with statusEvent := true } := by
    have hc : ({ m with statusEvent := true } : Node).nextConsequence false = none := h.2.1
    unfold finish
    dsimp only
    rw [hs, settled_of_none hc]
  rw [e, finish_of_settles h]

/-- A chain that ends with nothing marked ends the step. -/
theorem finish_of_settled_calm {n m : Node} (hs : settled false n = m) (he : m.statusEvent = false) :
    finish false n = m := by
  unfold finish
  simp [hs, he]

@[simp] theorem deliverHalts_nil {n : Node} (h : n.rx.halts = []) : n.deliverHalts = n := by
  unfold deliverHalts
  rw [h]
  rfl

end Node

/-- The step of a listening part. -/
theorem takeStep_listening {effect : Node → Node} {s : State} (h : s.node.Listening) :
    takeStep effect s = .next { s with node := Node.finish false (effect s.node) } := by
  unfold takeStep
  rw [Node.deliverHalts_nil h.2, h.1]
  rfl

/-- A step whose effect brings nothing with it. -/
theorem takeStep_calm {effect : Node → Node} {s : State} {m : Node} (h : s.node.Listening) (hm : effect s.node = m)
    (hc : m.Calm) (he : m.statusEvent = false) : takeStep effect s = .next { s with node := m } := by
  rw [takeStep_listening h, hm, Node.finish_of_none hc he]

/-- A step whose effect is a status event alone (R50). -/
theorem takeStep_event {effect : Node → Node} {s : State} {m : Node} (h : s.node.Listening)
    (hm : effect s.node = { m with statusEvent := true }) (hs : m.Settles) :
    takeStep effect s = .next { s with node := m.announced } := by
  rw [takeStep_listening h, hm, Node.finish_of_settles hs]

end Sys2Proof.Machine
end

