-- ==== Sys2Proof/Laws/Build.lean ====
section
/-! SUPPORT. What a build of the own STATUS writes (R51), and when a step makes one (R50). -/

namespace Sys2Proof.Machine.Node

/-! ### A status event marked stays marked until the build -/

theorem note_marks (n : Node) (h : n.statusEvent = true) : (note n).statusEvent = true := by
  unfold note; split
  · exact h
  · rfl

theorem note_marked (n : Node) (h : n.cue.phase ≠ .starting) : (note n).statusEvent = true := by
  unfold note; rw [if_neg h]

theorem setPhase_marks (p : Phase) (n : Node) (h : n.statusEvent = true) : (setPhase p n).statusEvent = true := by
  unfold setPhase; exact note_marks _ h

theorem setPhase_marked (p : Phase) (n : Node) (h : p ≠ .starting) : (setPhase p n).statusEvent = true := by
  unfold setPhase
  apply note_marked
  dsimp only
  split <;> exact h

theorem setRefusal_marks (id : CueId) (r : CueReason) (n : Node) (h : n.statusEvent = true) :
    (setRefusal id r n).statusEvent = true := by
  unfold setRefusal; split
  · exact h
  · exact note_marks _ h

theorem setHolds_marks (x : HoldSet) (n : Node) (h : n.statusEvent = true) : (setHolds x n).statusEvent = true := by
  unfold setHolds; split
  · exact h
  · exact note_marks _ h

theorem enterHalted_marked (n : Node) : (enterHalted n).statusEvent = true := by
  unfold enterHalted; exact setPhase_marked _ _ (by decide)

theorem raise_marks (k : FaultKind) (n : Node) (h : n.statusEvent = true) : (raise k n).statusEvent = true := by
  have hn : ∀ m : Node, m.statusEvent = true → (note m).statusEvent = true := note_marks
  unfold raise; dsimp only
  (repeat' split) <;>
    simp [h, hn, requestHalt_statusEvent, writeHaltRecord_statusEvent, enterHalted_marked]

theorem raiseIf_marks (b : Bool) (k : FaultKind) (n : Node) (h : n.statusEvent = true) :
    (raiseIf b k n).statusEvent = true := by
  unfold raiseIf; split
  · exact raise_marks k n h
  · exact h

/-- A consequence leaves a marked status event marked. -/
theorem applyConsequence_marks (c : Consequence) (n : Node) (h : n.statusEvent = true) :
    (applyConsequence c n).statusEvent = true := by
  have fail : ∀ r, (failHead r n).statusEvent = true := by
    intro r
    unfold failHead
    dsimp only
    split
    · exact setRefusal_marks _ _ _ (by simpa using h)
    · exact setPhase_marked _ _ (by decide)
  cases c with
  | brake a => simpa [applyConsequence] using h
  | holds => exact setHolds_marks _ _ h
  | arming =>
    simp only [applyConsequence]
    split
    · unfold enterArmed; exact setPhase_marked .armed n (by decide)
    · exact fail _
  | refusal => exact fail _
  | start =>
    unfold applyConsequence enterMoving superviseTow
    exact raiseIf_marks _ _ _ (setPhase_marked _ _ (by decide))
  | hold => exact setPhase_marked _ _ (by decide)
  | arrival =>
    show (enterSettling n).statusEvent = true
    unfold enterSettling
    simp only [restAxis_statusEvent]
    exact setPhase_marked .settling n (by decide)
  | resume => exact setPhase_marked _ _ (by decide)
  | stop => exact setPhase_marked _ _ (by decide)
  | retirement => exact setPhase_marked _ _ (by decide)
  | rampEnd => exact note_marks _ h

theorem settled_marks (tick : Bool) (n : Node) (h : n.statusEvent = true) : (settled tick n).statusEvent = true :=
  settled_induct (P := fun m => m.statusEvent = true) applyConsequence_marks tick n h

/-! ### What the build writes -/

/-- The STATUS frame a build hands to the slot (R25, R51). -/
def statusFrame (n : Node) : List Byte :=
  header 1 24 n.groupTag n.groupTag n.station (n.peers.ownSeq + 1) ++ statusPayload n.ownContent

/-- The Peer Table after a build (R51). -/
theorem build_peers (n : Node) : (build n).peers =
    { n.peers with
      entries := n.peers.entries.map (fun x => if x.station == n.station then
        { station := n.station, freshness := .fresh, age := 0, lastSeq := n.peers.ownSeq + 1, content := n.ownContent }
        else x)
      ownSeq := n.peers.ownSeq + 1, allowance := false, pendingBuild := false, timer := some n.statusPeriod } := by
  have hp : ∀ s e (m : Node), (putEntry s e m).peers =
      { m.peers with entries := m.peers.entries.map (fun x => if x.station == s then e else x) } := fun _ _ _ => rfl
  unfold build
  dsimp only
  split
  · simp [hp, inService, statusPeriod, live]; rfl
  · simp [hp, inService, statusPeriod, live]; rfl

/-- The STATUS slot after a build (R12, R51). -/
theorem build_tx_status (n : Node) : (build n).tx.status = (fillStatus n.statusFrame n).tx.status := by
  have hs : ∀ m : Node, (superviseTow m).tx.status = m.tx.status := by
    intro m; unfold superviseTow raiseIf; split <;> simp
  have hf : ∀ (f : List Byte) (m : Node), m.tx = n.tx →
      (fillStatus f m).tx.status = (fillStatus f n).tx.status := by
    intro f m h; unfold fillStatus; rw [h]; dsimp only; split <;> simp
  have hd : ∀ (m : Node), (dropDue .statusPeriod m).tx = m.tx := fun _ => rfl
  unfold build
  dsimp only
  split
  · rw [hd]; exact hf _ _ rfl
  · rw [hs, hd]; exact hf _ _ rfl

/-- Where no tow is judged, a build is no event and leaves the Cue Controller and the Fault Latches as they were. -/
theorem build_at_rest {n : Node} (h : (n.cue.phase.inMotion && n.headMoves .ring) = false) :
    (build n).cue = n.cue ∧ (build n).faults = n.faults ∧ (build n).ring = n.ring ∧ (build n).tilt = n.tilt
      ∧ (build n).statusEvent = n.statusEvent ∧ (build n).tx.halt = n.tx.halt := by
  have hf : ∀ (f : List Byte) (m : Node), (fillStatus f m).statusEvent = m.statusEvent
      ∧ (fillStatus f m).tx.halt = m.tx.halt := by
    intro f m; unfold fillStatus; dsimp only; split <;> exact ⟨rfl, rfl⟩
  have hs : ∀ m : Node, m.cue = n.cue → superviseTow m = m := by
    intro m hm
    have : (m.cue.phase.inMotion && m.headMoves .ring) = false := by
      rw [← h, hm]
      unfold headMoves headMove headCue
      rw [hm]
    unfold superviseTow raiseIf
    rw [this]
    rfl
  unfold build
  dsimp only
  split
  · simp [dropDue, hf]
  · rw [hs _ (by simp [dropDue])]
    simp [dropDue, hf]

/-! ### When a step builds -/

/-- A step with a status event, while the allowance is set, builds from the part as its consequences left it (R50). -/
theorem finish_builds {n : Node} (he : n.statusEvent = true) (ha : n.peers.allowance = true) :
    ∃ m : Node, m = build { settled false n with statusEvent := false }
      ∧ (finish false n = settled false m
          ∨ finish false n =
              { settled false m with statusEvent := false, peers := { m.peers with pendingBuild := true } }) := by
  refine ⟨_, rfl, ?_⟩
  have h1 := settled_marks false n he
  unfold finish
  dsimp only
  simp only [h1, Bool.true_or, if_true, settled_peers, ha]
  split
  · right; rfl
  · left; rfl

/-- A status event with the allowance used up leaves a build pending (R50). -/
theorem finish_pends {n : Node} (he : n.statusEvent = true) (ha : n.peers.allowance = false) :
    finish false n = { settled false n with statusEvent := false, peers := { n.peers with pendingBuild := true } } := by
  have h1 := settled_marks false n he
  unfold finish
  dsimp only
  simp only [h1, Bool.true_or, if_true, settled_peers, ha]
  rfl

end Sys2Proof.Machine.Node
end

