-- ==== Sys2Proof/Laws/Halted.lean ====
section
/-! SUPPORT. What entering HALTED and taking a fault leave (R118 to R125): `finish` in HALTED, then `enterHalted`, `raise`
and `takeHalt` with the rest of their step. -/

namespace Sys2Proof.Machine.Node

/-- A change of a brake touches the Cue Controller only where an axis RELEASING becomes RELEASED (R149). -/
theorem reportReleased_cue (a : Axis) (n : Node) : ∃ r t,
    (reportReleased a n).cue = { n.cue with ringRelease := r, tiltRelease := t }
      ∧ (n.cue.ringRelease = none → r = none) ∧ (n.cue.tiltRelease = none → t = none) := by
  unfold reportReleased
  split
  · rename_i h
    cases a
    · exact ⟨_, _, rfl, fun e => by simp [release, e] at h, id⟩
    · exact ⟨_, _, rfl, id, fun e => by simp [release, e] at h⟩
  · exact ⟨_, _, rfl, id, id⟩

theorem changeBrake_cue (a : Axis) (n : Node) : ∃ r t,
    (changeBrake a n).cue = { n.cue with ringRelease := r, tiltRelease := t }
      ∧ (n.cue.ringRelease = none → r = none) ∧ (n.cue.tiltRelease = none → t = none) := by
  unfold changeBrake brakeAgreed
  dsimp only
  split
  · exact ⟨n.cue.ringRelease, n.cue.tiltRelease, by simp, id, id⟩
  · split
    · split
      · obtain ⟨r, t, h, h1, h2⟩ := reportReleased_cue a
          ((n.setAxisDrive a { n.axisDrive a with released := !(n.axisDrive a).released }).setAxisDrive a
            { (n.setAxisDrive a { n.axisDrive a with released := !(n.axisDrive a).released }).axisDrive a with
              supervision := .agreed })
        exact ⟨r, t, by rw [h]; simp, by simpa using h1, by simpa using h2⟩
      · exact ⟨n.cue.ringRelease, n.cue.tiltRelease, by simp, id, id⟩
    · exact ⟨n.cue.ringRelease, n.cue.tiltRelease, by simp, id, id⟩

/-- What the consequences in HALTED leave as it was. -/
structure HaltedSame (n m : Node) : Prop where
  phase : m.cue.phase = .halted
  queue : m.cue.queue = n.cue.queue
  retired : m.cue.retired = n.cue.retired
  ringRelease : n.cue.ringRelease = none → m.cue.ringRelease = none
  tiltRelease : n.cue.tiltRelease = none → m.cue.tiltRelease = none
  haltRecord : m.cue.haltRecord = n.cue.haltRecord
  haltCount : m.cue.haltCount = n.cue.haltCount
  lastDone : m.cue.lastDone = n.cue.lastDone
  refusal : m.cue.refusal = n.cue.refusal
  faults : m.faults = n.faults
  ring : m.ring = n.ring
  tilt : m.tilt = n.tilt
  halt : m.tx.halt = n.tx.halt
  merged : m.counters.haltsMerged = n.counters.haltsMerged
  rampOff : m.cue.ramping = true → n.cue.ramping = true
  rampOn : n.cue.ramping = true → 0 < n.ring.velocity ∨ 0 < n.tilt.velocity → m.cue.ramping = true

theorem HaltedSame.same {n : Node} (h : n.cue.phase = .halted) : HaltedSame n n :=
  ⟨h, rfl, rfl, id, id, rfl, rfl, rfl, rfl, rfl, rfl, rfl, rfl, rfl, id, fun h _ => h⟩

theorem HaltedSame.trans {a b c : Node} (h : HaltedSame a b) (g : HaltedSame b c) : HaltedSame a c :=
  ⟨g.1, g.2.trans h.2, g.3.trans h.3, fun x => g.4 (h.4 x), fun x => g.5 (h.5 x), g.6.trans h.6, g.7.trans h.7,
   g.8.trans h.8, g.9.trans h.9, g.10.trans h.10, g.11.trans h.11, g.12.trans h.12, g.13.trans h.13, g.14.trans h.14,
   fun x => h.rampOff (g.rampOff x),
   fun x y => g.rampOn (h.rampOn x y) (by rw [h.ring, h.tilt]; exact y)⟩

/-- A consequence in HALTED. -/
theorem halted_consequence {tick : Bool} {c : Consequence} {n : Node} (hc : n.nextConsequence tick = some c)
    (h : n.cue.phase = .halted) : HaltedSame n (applyConsequence c n) := by
  have brake : ∀ a, HaltedSame n (changeBrake a n) := by
    intro a
    obtain ⟨r, t, e, hr, ht⟩ := changeBrake_cue a n
    constructor <;> simp [e, h]
    · exact hr
    · exact ht
    · exact fun x _ => x
  unfold nextConsequence at hc
  split at hc
  · cases hc; exact brake _
  split at hc
  · cases hc; exact brake _
  split at hc
  · cases hc
    show HaltedSame n (setHolds _ n)
    obtain ⟨b, e⟩ := setHolds_eq n.wantedHolds n
    rw [e]
    exact ⟨h, rfl, rfl, id, id, rfl, rfl, rfl, rfl, rfl, rfl, rfl, rfl, rfl, id, fun x _ => x⟩
  · unfold phaseConsequence at hc
    simp only [h] at hc
    split at hc
    · rename_i hh
      cases hc
      simp only [applyConsequence]
      simp at hh
      unfold note; split <;> constructor <;> simp_all
    · cases hc

theorem halted_settled (tick : Bool) {n : Node} (h : n.cue.phase = .halted) : HaltedSame n (settled tick n) :=
  settled_induct_of (P := HaltedSame n)
    (fun _ _ hc hm => hm.trans (halted_consequence hc hm.phase)) n (.same h)

/-- The build in HALTED. -/
theorem halted_build {n : Node} (h : n.cue.phase = .halted) : HaltedSame n (build n) := by
  have hr : (n.cue.phase.inMotion && n.headMoves .ring) = false := by rw [h]; rfl
  obtain ⟨hc, hf, hr, ht, -, hh⟩ := build_at_rest hr
  have hm : (build n).counters.haltsMerged = n.counters.haltsMerged := by
    have hs : ∀ m : Node, m.cue = n.cue → superviseTow m = m := by
      intro m hm
      unfold superviseTow raiseIf
      rw [hm, h]
      rfl
    have hq : ∀ (f : List Byte) (m : Node), (fillStatus f m).counters.haltsMerged = m.counters.haltsMerged := by
      intro f m; unfold fillStatus; dsimp only; split <;> rfl
    unfold build
    dsimp only
    split
    · simp [dropDue, hq]
    · rw [hs _ (by simp [dropDue])]
      simp [dropDue, hq]
  constructor <;> simp [hc, hf, hr, ht, hh, hm, h]
  intro x _; exact x

/-- A whole step's end in HALTED, after a status event. -/
theorem halted_finish {n : Node} (h : n.cue.phase = .halted) (he : n.statusEvent = true) :
    HaltedSame n (finish false n) ∧ n.StatusFollows (finish false n) := by
  have h1 := halted_settled false h
  refine ⟨?_, ?_, ?_⟩
  · unfold finish
    have mark : ∀ {a m : Node} (b : Bool), HaltedSame a m → HaltedSame a { m with statusEvent := b } :=
      fun b k => ⟨k.1, k.2, k.3, k.4, k.5, k.6, k.7, k.8, k.9, k.10, k.11, k.12, k.13, k.14, k.15, k.16⟩
    have pend : ∀ {a m : Node} (b c : Bool), HaltedSame a m →
        HaltedSame a { m with statusEvent := b, peers := { m.peers with pendingBuild := c } } :=
      fun b c k => ⟨k.1, k.2, k.3, k.4, k.5, k.6, k.7, k.8, k.9, k.10, k.11, k.12, k.13, k.14, k.15, k.16⟩
    dsimp only
    split
    · split
      · have h2 := mark false h1
        have h3 := h2.trans (halted_build h2.phase)
        have h4 := h3.trans (halted_settled false h3.phase)
        split
        · exact pend false true h4
        · exact h4
      · exact pend false true h1
    · exact h1
  · intro ha
    obtain ⟨m, hm, hf | hf⟩ := finish_builds he ha
    · rw [hf, settled_peers, hm, build_peers]
      simp
    · rw [hf, hm]
      simp [build_peers]
  · intro ha
    rw [finish_pends he ha]

/-- Entering HALTED (R118). -/
theorem enterHalted_enters (n : Node) :
    (enterHalted n).cue.phase = .halted ∧ (enterHalted n).cue.queue = n.haltedQueue
      ∧ (enterHalted n).cue.retired = n.haltedRetired ∧ (enterHalted n).cue.ringRelease = none
      ∧ (enterHalted n).cue.tiltRelease = none ∧ (enterHalted n).cue.haltCount = n.cue.haltCount
      ∧ (enterHalted n).cue.lastDone = n.cue.lastDone ∧ (enterHalted n).cue.refusal = n.cue.refusal
      ∧ (enterHalted n).ring = n.ring ∧ (enterHalted n).tilt = n.tilt ∧ (enterHalted n).tx = n.tx
      ∧ ((enterHalted n).cue.ramping = true ↔ 0 < n.ring.velocity ∨ 0 < n.tilt.velocity) := by
  unfold enterHalted haltedQueue haltedRetired
  dsimp only
  by_cases hp : n.cue.phase = .stopping
  · simp only [hp, if_true]
    unfold retireHead
    cases hq : n.cue.queue with
    | nil => simp [setPhase, hq]
    | cons c rest => simp [setPhase, pushRetired]
  · simp only [hp, if_false]
    unfold markHead
    cases hq : n.cue.queue with
    | nil => simp [setPhase, hq]
    | cons c rest => simp [setPhase]

/-- A wagon that has entered HALTED ends its step so (R118, R147). -/
theorem haltEntered_finish {a n : Node} (hp : n.cue.phase = .halted) (he : n.statusEvent = true)
    (hq : n.cue.queue = a.haltedQueue) (ht : n.cue.retired = a.haltedRetired) (hr : n.cue.ringRelease = none)
    (hl : n.cue.tiltRelease = none) (hg : n.cue.ramping = true ↔ 0 < n.ring.velocity ∨ 0 < n.tilt.velocity) :
    a.HaltEntered (finish false n) := by
  obtain ⟨h, -⟩ := halted_finish hp he
  have hramp : (finish false n).cue.ramping = true ↔
      0 < (finish false n).ring.velocity ∨ 0 < (finish false n).tilt.velocity := by
    rw [h.ring, h.tilt]
    exact ⟨fun x => hg.1 (h.rampOff x), fun x => h.rampOn (hg.2 x) x⟩
  refine ⟨h.phase, h.queue.trans hq, h.retired.trans ht, h.ringRelease hr, h.tiltRelease hl, hramp, ?_⟩
  intro x
  rw [released_of_calm (finish_done false n)]
  unfold brakeCommand estopLatched headMoves
  rw [h.phase]
  have hv : 0 < ((finish false n).planner x).velocity → (finish false n).cue.ramping = true := by
    intro hv; apply hramp.2; cases x
    · exact .inl hv
    · exact .inr hv
  simp only [Phase.inMotion, Bool.false_and, Bool.false_or, Bool.and_eq_true, Bool.not_eq_true', Option.isSome_iff_exists,
    decide_eq_true_eq, beq_self_eq_true, Bool.or_eq_true, beq_iff_eq, true_and]
  constructor
  · rintro ⟨⟨h1, h2⟩, ⟨h3, h4⟩, h5⟩
    exact ⟨h1, h2, h4, fun e => by subst e; simpa using h5⟩
  · rintro ⟨h1, h2, h3, h4⟩
    refine ⟨⟨h1, h2⟩, ⟨hv h3, h3⟩, ?_⟩
    cases x
    · exact .inr (h4 rfl)
    · exact .inl rfl

/-- What a step that ends with `finish` keeps elsewhere, given what its effect kept. -/
theorem elsewhere_finish {a n : Node} (hp : n.cue.phase = .halted) (he : n.statusEvent = true)
    (h : a.ElsewhereKept n) : a.ElsewhereKept (finish false n) := by
  obtain ⟨hs, -⟩ := halted_finish hp he
  have raw : ∀ x, ((finish false n).axisDrive x).raw = (n.axisDrive x).raw := by rintro (_ | _) <;> simp [axisDrive]
  have fails : ∀ x, ((finish false n).axisDrive x).readFails = (n.axisDrive x).readFails := by
    rintro (_ | _) <;> simp [axisDrive]
  simpa [ElsewhereKept, hs.lastDone, hs.refusal, raw, fails] using h

/-- A HALT request (R13, R121). -/
theorem requestHalt_writes (k : FaultKind) (n : Node) :
    (n.tx.halt.state = .empty →
        (requestHalt k n).tx.halt = { state := .pending, collisions := 0, replaced := false
                                      content := header 4 2 n.groupTag n.groupTag n.station n.cue.haltCount
                                        ++ [BitVec.ofNat 8 k.code, BitVec.ofNat 8 n.station] }
          ∧ (requestHalt k n).cue = { n.cue with haltCount := n.cue.haltCount + 1 }
          ∧ (requestHalt k n).counters = n.counters)
      ∧ (n.tx.halt.state ≠ .empty →
          (requestHalt k n).tx.halt = n.tx.halt ∧ (requestHalt k n).cue = n.cue
            ∧ (requestHalt k n).counters.haltsMerged = n.counters.haltsMerged.bump) := by
  unfold requestHalt
  constructor
  · intro h; rw [if_pos h]; exact ⟨rfl, rfl, rfl⟩
  · intro h; rw [if_neg h]; exact ⟨rfl, rfl, rfl⟩

/-- The part just before a fault's halt: the fault in the set, and for ESTOP both velocity memories at 0 (R117, R125). -/
def latched (k : FaultKind) (n : Node) : Node :=
  let n := { n with faults := n.faults.insert k, statusEvent := true }
  if k = .estop then
    { n with ring := { n.ring with velocity := 0 }, tilt := { n.tilt with velocity := 0 } } else n

theorem raise_eq {k : FaultKind} {n : Node} (hs : n.inService = true) (hk : n.faults.has k = false) :
    raise k n = requestHalt k
      (if n.cue.phase = .halted then latched k n
        else writeHaltRecord n.station (.fault k) (enterHalted (latched k n))) := by
  have hp : n.cue.phase ≠ .starting := by
    intro h; unfold inService at hs; rw [h] at hs; cases hs
  unfold raise
  rw [if_neg (by simp [hs, hk])]
  unfold latched note
  dsimp only
  rw [if_neg hp]
  by_cases he : k = .estop
  · simp only [he, if_true]
    by_cases hh : n.cue.phase = .halted <;> simp [hh, station]
  · simp only [he, if_false]
    by_cases hh : n.cue.phase = .halted <;> simp [hh, station]

theorem latched_same (k : FaultKind) (n : Node) :
    (latched k n).cue = n.cue ∧ (latched k n).tx = n.tx ∧ (latched k n).peers = n.peers ∧ (latched k n).cfg = n.cfg
      ∧ (latched k n).rx = n.rx ∧ (latched k n).counters = n.counters ∧ (latched k n).faults = n.faults.insert k
      ∧ (latched k n).statusEvent = true ∧ (latched k n).drive = n.drive
      ∧ (latched k n).supplyScale = n.supplyScale ∧ (latched k n).ringMode = n.ringMode
      ∧ (latched k n).inputs = n.inputs ∧ (latched k n).monitor = n.monitor ∧ (latched k n).reportCount = n.reportCount
      ∧ ∀ x, (latched k n).planner x =
          if k = .estop then { n.planner x with velocity := 0 } else n.planner x := by
  unfold latched
  dsimp only
  split <;> and_intros <;> first | rfl | (intro x; cases x <;> rfl)

/-- Raising a fault that is not latched, with the rest of its step (R117 to R121, R124, R125). -/
theorem raise_taken {k : FaultKind} {n : Node} (hs : n.inService = true) (hk : n.faults.has k = false) :
    n.FaultTaken k (finish false (raise k n)) := by
  obtain ⟨lc, lt, lp, lf, lr, lo, lu, le, ld, ls, lm, li, ln, lq, lv⟩ := latched_same k n
  set z : Node := if n.cue.phase = .halted then latched k n
        else writeHaltRecord n.station (.fault k) (enterHalted (latched k n)) with hz
  have hr : raise k n = requestHalt k z := raise_eq hs hk
  obtain ⟨ep, eq, er, e1, e2, ec, ed, ef, eg, et, ex, em⟩ := enterHalted_enters (latched k n)
  -- what stands in `z`
  have zp : z.cue.phase = .halted := by
    rw [hz]; split
    · rw [lc]; assumption
    · rw [writeHaltRecord_cue_phase, ep]
  have ze : z.statusEvent = true := by
    rw [hz]; split
    · exact le
    · rw [writeHaltRecord_statusEvent]; exact enterHalted_marked _
  have ztx : z.tx = n.tx := by
    rw [hz]; split
    · exact lt
    · rw [writeHaltRecord_tx, ex, lt]
  have zcfg : z.cfg = n.cfg := by rw [hz]; split <;> simp [lf]
  have zrx : z.rx = n.rx := by rw [hz]; split <;> simp [lr]
  have zpe : z.peers = n.peers := by rw [hz]; split <;> simp [lp]
  have zf : z.faults = n.faults.insert k := by rw [hz]; split <;> simp [lu]
  have zm : z.counters.haltsMerged = n.counters.haltsMerged := by
    rw [hz]; split
    · rw [lo]
    · have h1 : (retireHead .cancelled (latched k n)).counters.haltsMerged = (latched k n).counters.haltsMerged := by
        unfold retireHead; split <;> rfl
      unfold enterHalted
      dsimp only
      split <;> simp [h1, lo]
  have zc : z.cue.haltCount = n.cue.haltCount := by
    rw [hz]; split
    · rw [lc]
    · show (enterHalted (latched k n)).cue.haltCount = _; rw [ec, lc]
  have zd : z.cue.lastDone = n.cue.lastDone := by
    rw [hz]; split
    · rw [lc]
    · show (enterHalted (latched k n)).cue.lastDone = _; rw [ed, lc]
  have zr : z.cue.refusal = n.cue.refusal := by
    rw [hz]; split
    · rw [lc]
    · show (enterHalted (latched k n)).cue.refusal = _; rw [ef, lc]
  have zv : ∀ x, z.planner x = if k = .estop then { n.planner x with velocity := 0 } else n.planner x := by
    intro x
    rw [hz]; split
    · exact lv x
    · rw [← lv x]; cases x
      · show (enterHalted (latched k n)).ring = _; rw [eg]; rfl
      · show (enterHalted (latched k n)).tilt = _; rw [et]; rfl
  have zg : z.groupTag = n.groupTag := by
    have : z.inService = true := by unfold inService; rw [zp]; rfl
    unfold groupTag live; rw [this, hs, zcfg]
  have zs : z.station = n.station := by unfold station; rw [zcfg]
  -- the request and the end of the step
  obtain ⟨w1, w2⟩ := requestHalt_writes k z
  have rp : (requestHalt k z).cue.phase = .halted := by simp [zp]
  have re : (requestHalt k z).statusEvent = true := by simp [ze]
  obtain ⟨h, hfol⟩ := halted_finish rp re
  rw [hr]
  have rring : ∀ x, (requestHalt k z).planner x = z.planner x := by intro x; cases x <;> simp [planner]
  have fpl : ∀ x, (finish false (requestHalt k z)).planner x = z.planner x := by
    intro x; rw [← rring]; cases x
    · exact h.ring
    · exact h.tilt
  have rcue : ∃ c, (requestHalt k z).cue = { z.cue with haltCount := c } := by
    by_cases he : z.tx.halt.state = .empty
    · exact ⟨_, (w1 he).2.1⟩
    · exact ⟨z.cue.haltCount, (w2 he).2.1⟩
  obtain ⟨c, rcue⟩ := rcue
  refine ⟨?_, ?_, ?_, ?_, ?_, ?_, ?_, ?_⟩
  · rw [h.faults]; simp [zf]
  · intro x; rw [fpl, zv]
  · intro hn
    have hzz : z = writeHaltRecord n.station (.fault k) (enterHalted (latched k n)) := by rw [hz, if_neg hn]
    have zcue : z.cue = { (enterHalted (latched k n)).cue with haltRecord := some ⟨n.station, .fault k⟩ } := by
      rw [hzz]; rfl
    have qq : (latched k n).haltedQueue = n.haltedQueue := by unfold haltedQueue; rw [lc]
    have tt : (latched k n).haltedRetired = n.haltedRetired := by unfold haltedRetired; rw [lc]
    refine ⟨haltEntered_finish rp re ?_ ?_ ?_ ?_ ?_, ?_⟩
    · rw [rcue, zcue, ← qq]; exact eq
    · rw [rcue, zcue, ← tt]; exact er
    · rw [rcue, zcue]; exact e1
    · rw [rcue, zcue]; exact e2
    · have a1 := rring .ring
      have a2 := rring .tilt
      simp only [planner] at a1 a2
      rw [a1, a2, rcue, zcue]
      have b1 : z.ring = (latched k n).ring := by rw [hzz]; simp
      have b2 : z.tilt = (latched k n).tilt := by rw [hzz]; simp
      rw [b1, b2]
      exact em
    · rw [h.haltRecord, rcue, zcue]
  · intro hn
    have hzz : z = latched k n := by rw [hz, if_pos hn]
    have zcue : z.cue = n.cue := by rw [hzz, lc]
    refine ⟨h.phase, ?_, ?_, ?_, ?_⟩
    · rw [h.queue, rcue, zcue]
    · rw [h.retired, rcue, zcue]
    · rw [h.haltRecord, rcue, zcue]
    · rw [h.ring, h.tilt]
      have h1 := h.rampOff
      have h2 := h.rampOn
      rw [rcue, zcue] at h1 h2
      constructor
      · intro hh
        refine ⟨h1 hh, ?_⟩
        by_contra hcon
        have hcalm := finish_done false (requestHalt k z)
        unfold nextConsequence at hcalm
        split at hcalm
        · cases hcalm
        split at hcalm
        · cases hcalm
        split at hcalm
        · cases hcalm
        unfold phaseConsequence at hcalm
        rw [h.phase] at hcalm
        have v1 : (finish false (requestHalt k z)).ring.velocity = 0 := by rw [h.ring]; omega
        have v2 : (finish false (requestHalt k z)).tilt.velocity = 0 := by rw [h.tilt]; omega
        simp [hh, v1, v2] at hcalm
      · rintro ⟨x, y⟩; exact h2 x y
  · intro he
    obtain ⟨a, b, d⟩ := w1 (by rw [ztx]; exact he)
    refine ⟨?_, ?_, ?_⟩
    · rw [h.halt, a, zg, zs, zc]
    · rw [h.haltCount, b, zc]
    · rw [h.merged, d, zm]
  · intro he
    obtain ⟨a, b, d⟩ := w2 (by rw [ztx]; exact he)
    refine ⟨?_, ?_, ?_⟩
    · rw [h.halt, a, ztx]
    · rw [h.haltCount, b, zc]
    · rw [h.merged, d, zm]
  · obtain ⟨x, y⟩ := hfol
    have : (requestHalt k z).peers = n.peers := by simp [zpe]
    unfold StatusFollows at *
    rw [this] at x y
    exact ⟨x, y⟩
  · have zdr : z.drive = n.drive := by rw [hz]; split <;> simp [ld]
    refine elsewhere_finish rp re ?_
    and_intros
    · simp [zrx]
    · rw [hz]; split <;> simp [ls]
    · rw [hz]; split <;> simp [lm]
    · rw [hz]; split <;> simp [li]
    · rw [hz]; split <;> simp [ln]
    · simp [zcfg]
    · rw [hz]; split <;> simp [lq]
    · simp [ztx]
    · simp [ztx]
    · rw [rcue]; show z.cue.permit = _; rw [hz]; split <;> simp [lc]
    · rw [rcue]; exact zd
    · rw [rcue]; exact zr
    · simp [zdr]
    · simp [zdr]
    · simp [zdr]
    · intro x; cases x <;> simp [axisDrive, zdr]

/-- A HALT delivered to a wagon that is not halted, with the rest of its step (R118, R123, R124). -/
theorem takeHalt_taken {m : HaltMessage} {n : Node} (hs : n.inService = true) (hp : n.cue.phase ≠ .halted) :
    ({ n with counters := { n.counters with
        accepted := n.counters.accepted.bump, haltsReceived := n.counters.haltsReceived.bump } } : Node).HaltTaken m
      (finish false (takeHalt m n)) := by
  set a : Node := { n with counters := { n.counters with
        accepted := n.counters.accepted.bump, haltsReceived := n.counters.haltsReceived.bump } } with ha
  have ht : takeHalt m n = writeHaltRecord m.origin m.reason (enterHalted a) := by
    have hc : (a.inService && a.cue.phase != .halted) = true := by
      rw [Bool.and_eq_true]
      exact ⟨hs, by simpa using hp⟩
    show (if (a.inService && a.cue.phase != .halted) = true then _ else _) = _
    rw [if_pos hc]
  rw [ht]
  obtain ⟨ep, eq, er, e1, e2, ec, ed, ef, eg, et, ex, em⟩ := enterHalted_enters a
  have rp : (writeHaltRecord m.origin m.reason (enterHalted a)).cue.phase = .halted := ep
  have re : (writeHaltRecord m.origin m.reason (enterHalted a)).statusEvent = true := enterHalted_marked a
  obtain ⟨h, hfol⟩ := halted_finish rp re
  refine ⟨haltEntered_finish rp re eq er e1 e2 ?_, ?_, ?_, ?_, ?_, ?_, ?_, ?_⟩
  · rw [show (writeHaltRecord m.origin m.reason (enterHalted a)).ring = a.ring by simp,
      show (writeHaltRecord m.origin m.reason (enterHalted a)).tilt = a.tilt by simp]
    exact em
  · rw [h.haltRecord]; rfl
  · rw [h.faults]; simp
  · intro x; cases x
    · exact h.ring.trans eg
    · exact h.tilt.trans et
  · rw [h.halt]; simp
  · rw [h.haltCount]; exact ec
  · unfold StatusFollows at *
    have : (writeHaltRecord m.origin m.reason (enterHalted a)).peers = a.peers := by simp
    rw [this] at hfol
    exact hfol
  · refine elsewhere_finish rp re ?_
    and_intros
    all_goals first | (simp; done) | exact ed | exact ef | (intro x; cases x <;> simp [axisDrive])

end Sys2Proof.Machine.Node
end

