-- ==== Sys2Proof/WellFormed.lean ====
section
/-! DEFINITION. Which commands are well formed: the operand bounds the spec gives. `Machine.exec` is total on ill-formed
ones too; the world never sends them. -/

namespace Sys2Proof

/-- The bounds on a command's operands. -/
def Instr.wellFormed : Instr → Bool
  -- R169: the transfer clocks in 148 bytes
  | .configReadComplete bytes => bytes.length == 148
  -- R144: the tilt sensor reports an unsigned rake
  | .sensorReadComplete .tilt (some v) => decide (0 ≤ v)
  -- 00_scope: the wagons of a group are stations 0 to 23
  | .peerEntryStale s => decide (s < 24)
  | .peerEntryLost s => decide (s < 24)
  -- R6: the largest frame has 200 payload bytes, so header, payload and CRC fill cells 0 to 1679
  | .collision (some c) => decide (c < 1680)
  -- R176: the group-common part of the live copy, bytes 21 to 79
  | .liveCopyAlteration a _ => decide (21 ≤ a) && decide (a ≤ 79)
  | _ => true

end Sys2Proof
end

