-- ==== Sys2Proof/Tests/Slice0.lean ====
section
/-! SUPPORT. The model's own tests: one ill-formed command for each check of WellFormed; worked examples of the spec, each with
its place; one concrete state for the hypotheses of each statement, clause by clause. -/

namespace Sys2Proof.Machine.Tests

open Node

set_option Elab.async false

/-! ## WellFormed: an ill-formed command for each check -/

theorem test_read_of_147_bytes_refused : (Instr.configReadComplete (List.replicate 147 0)).wellFormed = false := by decide +kernel
theorem test_read_of_148_bytes_taken : (Instr.configReadComplete (List.replicate 148 0)).wellFormed = true := by decide +kernel
theorem test_negative_tilt_refused : (Instr.sensorReadComplete .tilt (some (-1))).wellFormed = false := by decide
theorem test_negative_ring_taken : (Instr.sensorReadComplete .ring (some (-1))).wellFormed = true := by decide
theorem test_stale_station_24_refused : (Instr.peerEntryStale 24).wellFormed = false := by decide
theorem test_lost_station_24_refused : (Instr.peerEntryLost 24).wellFormed = false := by decide
theorem test_collision_cell_1680_refused : (Instr.collision (some 1680)).wellFormed = false := by decide
theorem test_alteration_at_20_refused : (Instr.liveCopyAlteration 20 0).wellFormed = false := by decide
theorem test_alteration_at_80_refused : (Instr.liveCopyAlteration 80 0).wellFormed = false := by decide

/-! ## Decode: the table gives no row any bits -/

theorem test_no_word_spells_a_command : decodeTableWord 0 0 = none ∧ State.reset.withFetchWord 0 0 = State.reset := by decide

/-! ## Worked examples of the spec -/

/-- R33, the table of the listen hash. -/
theorem test_listen_hash : [679, 700, 1200, 2050, 3000].map listenHash = [18, 9, 20, 0, 7] := by decide

/-- R33, R32: a tag of the last hash, 31. -/
theorem test_listen_hash_top : listenHash 31 = 31 := by decide

/-- 5.5, Worked case: one tick of the ring axis: the conversions, the scale, the cap, the candidate and the clamp. -/
theorem test_ring_tick_conversions :
    accelStep 150 = 157 ∧ speedStep 600 = 157286 ∧ supplyScaleOf 200 240 = 213 ∧ capOf 157286 213 256 = 130866
      ∧ reportedVelocity true 130866 = 499 := by decide

/-- The planner of that worked case. -/
def ringAtTick : Planner :=
  { setpoint := 655360000, velocity := 130866, target := 2949120000, up := true, pinch := 0 }

theorem test_ring_tick_profile :
    profileVelocity 130866 130866 157 ringAtTick.remaining = 130866 ∧ ringAtTick.candidate 130866 = 655490866 := by
  decide

theorem test_ring_tick_clamp :
    ringAtTick.clamp [9851, 10008] 150 655490866 = 655425536
      ∧ (ringAtTick.commit 655425536).velocity = 65536 := by decide

/-- 5.5, Worked case: the end of a tilt move: the profile velocity of each row. -/
theorem test_tilt_end_profile :
    [(312, 1000), (260, 740), (208, 532), (156, 376), (104, 272), (156, 116), (104, 12), (12, 0)].map
      (fun p : Nat × Nat => profileVelocity p.1 13107 52 (p.2 : Int)) = [260, 208, 156, 104, 156, 104, 52, 52] := by decide

/-- R92, the table of the supply scale. -/
theorem test_supply_scale : [150, 200, 240, 400].map (supplyScaleOf 200) = [256, 256, 213, 128] := by decide

/-- Chapter 9, Worked example: a dragging bogie: the values of channel 1. -/
theorem test_bogie_values : [280, 304, 340, 90].map (fun r => scaledValue 512 0 r) = [140, 152, 170, 45] := by decide

/-- R45, Worked example: one neighbour seen over time: the ages 9, 10, 36 and 37 at the thresholds 9 and 36. -/
theorem test_freshness_of_age :
    [9, 10, 36, 37].map (freshnessAt 9 36) = [.fresh, .stale, .stale, .lost] := by decide

/-- R1: the start byte 1100 0011 as cells, the most significant bit first: a 1 high then low, a 0 low then high. -/
theorem test_start_byte_cells :
    (lineCells [0xC3]).map (fun x => (x.first, x.second)) =
      [(true, false), (true, false), (false, true), (false, true), (false, true), (false, true), (true, false), (true, false)] := by
  decide

/-- R9: one step shifts right and, when a 1 falls out, takes 0xB400. -/
theorem test_random_step : randomStep 0x9602 = 0x4B01 ∧ randomStep 0x9605 = 0xFF02 := by decide

/-- R5: the CRC of the bytes "123456789", polynomial 0x1021, initial 0xFFFF, not inverted. -/
theorem test_crc : crc16 [0x31, 0x32, 0x33, 0x34, 0x35, 0x36, 0x37, 0x38, 0x39] = 0x29B1 := by decide +kernel

/-- 00_scope, Q16: toward zero on both sides. -/
theorem test_whole_units : wholeUnits 65535 = 0 ∧ wholeUnits (-65537) = -1 := by decide

/-! ## A wagon for the witnesses: station 2 of the closed ring 0 to 5, group 679, all peers FRESH, IDLE -/

/-- The main record, bytes 0 to 95 (section 10.1), with every field that has a default left at 0xFF but the ring limits. -/
def record : List Byte :=
  [1] ++ bytesBE 2 679 ++ bytesBE 4 0 ++ bytesBE 3 0 ++ bytesBE 2 0 ++ [0x60]
    ++ [5, 7, 3, 1, 0, 0, 0, 0] ++ [6, 1] ++ bytesBE 4 0x3F ++ List.replicate 23 0xFF
    ++ signedBytes 3 (-60000) ++ signedBytes 3 60000 ++ List.replicate 24 0xFF
    ++ (List.replicate 8 (bytesBE 2 1024)).flatten

/-- The channel table: offset 0, limits 0 and 500. -/
def channelTable : List Byte := (List.replicate 8 (bytesBE 2 0 ++ bytesBE 2 0 ++ bytesBE 2 500)).flatten

/-- The 148 bytes as read, each block followed by its CRC (worked out outside the model). -/
def rawCopy : List Byte := record ++ bytesBE 2 0x8A6D ++ channelTable ++ bytesBE 2 0x1C3E

/-- The CRC register over 16 more bytes. -/
theorem crc_chunk (l : List Byte) (c : BitVec 16) :
    l.foldl crcByte c = (l.drop 16).foldl crcByte ((l.take 16).foldl crcByte c) := by
  conv_lhs => rw [← List.take_append_drop 16 l, List.foldl_append]

theorem main_crc_0 : (((record.drop 0).take 16).foldl crcByte 0xFFFF) = 0x2E96 := by decide +kernel
theorem main_crc_16 : (((record.drop 16).take 16).foldl crcByte 0x2E96) = 0x44A3 := by decide +kernel
theorem main_crc_32 : (((record.drop 32).take 16).foldl crcByte 0x44A3) = 0x2698 := by decide +kernel
theorem main_crc_48 : (((record.drop 48).take 16).foldl crcByte 0x2698) = 0x9AB1 := by decide +kernel
theorem main_crc_64 : (((record.drop 64).take 16).foldl crcByte 0x9AB1) = 0x53A6 := by decide +kernel
theorem main_crc_80 : (((record.drop 80).take 16).foldl crcByte 0x53A6) = 0x8A6D := by decide +kernel

theorem table_crc_0 : (((channelTable.drop 0).take 16).foldl crcByte 0xFFFF) = 0xF9F0 := by decide +kernel
theorem table_crc_16 : (((channelTable.drop 16).take 16).foldl crcByte 0xF9F0) = 0xC595 := by decide +kernel
theorem table_crc_32 : (((channelTable.drop 32).take 16).foldl crcByte 0xC595) = 0x1C3E := by decide +kernel

/-- R5, R170: both blocks' CRCs. -/
theorem main_crc : crc16 record = 0x8A6D := by
  have d0 : record.drop 0 = record := rfl
  unfold crc16
  rw [← d0]
  rw [crc_chunk, main_crc_0, List.drop_drop]
  rw [crc_chunk, main_crc_16, List.drop_drop]
  rw [crc_chunk, main_crc_32, List.drop_drop]
  rw [crc_chunk, main_crc_48, List.drop_drop]
  rw [crc_chunk, main_crc_64, List.drop_drop]
  rw [crc_chunk, main_crc_80, List.drop_drop]
  rfl

theorem table_crc : crc16 channelTable = 0x1C3E := by
  have d0 : channelTable.drop 0 = channelTable := rfl
  unfold crc16
  rw [← d0]
  rw [crc_chunk, table_crc_0, List.drop_drop]
  rw [crc_chunk, table_crc_16, List.drop_drop]
  rw [crc_chunk, table_crc_32, List.drop_drop]
  rfl

/-- R170: the record passes both CRC checks and every range check. -/
theorem test_record_crc : crcGood rawCopy = true := by
  have h1 : rawCopy.take 96 = record := by decide +kernel
  have h2 : (rawCopy.drop 98).take 48 = channelTable := by decide +kernel
  unfold crcGood
  rw [h1, h2, main_crc, table_crc]
  decide +kernel

/-- R169: the ring limit -1 md reads as an erased field and fails; -2 md is taken. -/
theorem test_erased_ring_limit :
    fieldsGood (rawCopy.take 53 ++ [0xFF, 0xFF, 0xFF] ++ rawCopy.drop 56 |> formLiveCopy) = false
      ∧ fieldsGood (rawCopy.take 53 ++ [0xFF, 0xFF, 0xFE] ++ rawCopy.drop 56 |> formLiveCopy) = true := by decide +kernel

theorem test_record_fields : fieldsGood (formLiveCopy rawCopy) = true := by decide +kernel

/-- Section 10.1: the table of the statements and the tables of the model hold the same fields. -/
theorem test_record_table :
    recordTable.map (fun f => (f.1, f.2.1, f.2.2.1, f.2.2.2.1)) = rangeFields
      ∧ recordTable.filterMap (fun f => f.2.2.2.2.map (fun d => (f.1, f.2.1, d))) = defaultFields := by decide

/-- The channel table with the limits of channel 7 the wrong way round, and the record with TOW on channel 7 (the listen mask
chosen so that the CRC is the same); both CRCs are worked out outside the model. -/
def badTable : List Byte := (List.replicate 7 (bytesBE 2 0 ++ bytesBE 2 0 ++ bytesBE 2 500)).flatten
  ++ bytesBE 2 0 ++ bytesBE 2 501 ++ bytesBE 2 500
def towRecord : List Byte := [1] ++ bytesBE 2 679 ++ bytesBE 4 0x6E15 ++ (record.drop 7).take 13 ++ [6] ++ record.drop 21
def badCopy : List Byte := record ++ bytesBE 2 0x8A6D ++ badTable ++ bytesBE 2 0x6228
def towOnSeven : List Byte := towRecord ++ bytesBE 2 0x8A6D ++ channelTable ++ bytesBE 2 0x1C3E

theorem bad_crc_32 : (((badTable.drop 32).take 16).foldl crcByte 0xC595) = 0x6228 := by decide +kernel
theorem bad_crc : crc16 badTable = 0x6228 := by
  have d0 : badTable.drop 0 = badTable := rfl
  have h0 : (badTable.drop 0).take 16 = (channelTable.drop 0).take 16 := by decide +kernel
  have h1 : (badTable.drop 16).take 16 = (channelTable.drop 16).take 16 := by decide +kernel
  unfold crc16
  rw [← d0]
  rw [crc_chunk, h0, table_crc_0, List.drop_drop]
  rw [crc_chunk, h1, table_crc_16, List.drop_drop]
  rw [crc_chunk, bad_crc_32, List.drop_drop]
  rfl

theorem tow_crc_0 : (((towRecord.drop 0).take 16).foldl crcByte 0xFFFF) = 0xC5A5 := by decide +kernel
theorem tow_crc_16 : (((towRecord.drop 16).take 16).foldl crcByte 0xC5A5) = 0x44A3 := by decide +kernel
theorem tow_crc : crc16 towRecord = 0x8A6D := by
  have d0 : towRecord.drop 0 = towRecord := rfl
  have h : towRecord.drop 32 = record.drop 32 := by decide +kernel
  unfold crc16
  rw [← d0]
  rw [crc_chunk, tow_crc_0, List.drop_drop]
  rw [crc_chunk, tow_crc_16, List.drop_drop]
  rw [h]
  rw [crc_chunk, main_crc_32, List.drop_drop]
  rw [crc_chunk, main_crc_48, List.drop_drop]
  rw [crc_chunk, main_crc_64, List.drop_drop]
  rw [crc_chunk, main_crc_80, List.drop_drop]
  rfl

/-- R170: the range check and the channel check, each the first to fail. -/
theorem test_record_refused : judgeConfig badCopy 2 = .field ∧ judgeConfig towOnSeven 2 = .channel := by
  have h1 : badCopy.take 96 = record := by decide +kernel
  have h2 : (badCopy.drop 98).take 48 = badTable := by decide +kernel
  have h3 : towOnSeven.take 96 = towRecord := by decide +kernel
  have h4 : (towOnSeven.drop 98).take 48 = channelTable := by decide +kernel
  have b : crcGood badCopy = true := by unfold crcGood; rw [h1, h2, main_crc, bad_crc]; decide +kernel
  have t : crcGood towOnSeven = true := by unfold crcGood; rw [h3, h4, tow_crc, table_crc]; decide +kernel
  have fb : fieldsGood (formLiveCopy badCopy) = false := by decide +kernel
  have ft : fieldsGood (formLiveCopy towOnSeven) = true := by decide +kernel
  unfold judgeConfig
  rw [b, t]
  simp only [fb, ft]
  decide +kernel

/-- R170: VALID for station 2, the wrong station for station 6. -/
theorem test_record_valid : judgeConfig rawCopy 2 = .valid ∧ judgeConfig rawCopy 6 = .station := by
  unfold judgeConfig
  rw [test_record_crc]
  simp only [test_record_fields]
  decide +kernel

/-- R169: the defaults of section 10.1 stand in the live copy. -/
theorem test_defaults :
    let l := formLiveCopy rawCopy
    Live.statusPeriod l = 3 ∧ Live.lostThreshold l = 36 ∧ Live.window l .ring = 150 ∧ Live.tiltMax l = 3000
      ∧ Live.permitTicks l = 60 ∧ Live.towDerate l = 128 ∧ Live.ringMin l = -60000 := by decide +kernel

/-- The live copy in force. -/
def liveCopy : List Byte := formLiveCopy rawCopy

/-- The live copy with towing permitted (byte 76). -/
def towCopy : List Byte := liveCopy.set 76 1

/-- A peer heard at the last tick. -/
def peer (st : Nat) : Entry :=
  { station := st, freshness := .fresh, age := 1, lastSeq := 10, content := { Content.zero with phase := .idle, digest := 7 } }

/-- The wagon. -/
def wagon : Node :=
  { Node.powerOn 2 0xE1 with
    cue := { CueCtl.initial with phase := .idle, holds := 0, permit := some 60 }
    peers := { entries := [0, 1, 2, 3, 4, 5].map peer, map := { closed := true, fitted := [0, 1, 2, 3, 4, 5] }
               ownSeq := 10, timer := some 3, allowance := true, pendingBuild := false }
    drive := { Drive.initial with
      ring := { AxisDrive.initial with supervision := .agreed }
      tilt := { AxisDrive.initial with supervision := .agreed } }
    cfg := { Cfg.initial 2 with read := .idle, raw := rawCopy, live := liveCopy, startDigest := 7, lastDigest := 7
                                recheck := some 256 } }

/-- A machine holding a part, with nothing waiting. -/
def of (n : Node) : State := { node := n, pending := [] }

/-- A cue of both axes. -/
def bothAxes : Cue :=
  { id := 5, ring := some { target := 1000, speed := 600 }, tilt := some { target := 500, speed := 50 }
    interrupted := false }

/-- A cue of the ring alone. -/
def ringOnly : Cue := { id := 6, ring := some { target := 1000, speed := 600 }, tilt := none, interrupted := false }

/-- The wagon in a phase, under the given queue. -/
def inPhase (p : Phase) (q : List Cue) : Node := { wagon with cue := { wagon.cue with phase := p, queue := q } }

/-- The wagon moving under a cue of both axes: brakes released and agreed, feedbacks lifted. -/
def moving : Node :=
  { inPhase .moving [bothAxes] with
    cue := { wagon.cue with phase := .moving, queue := [bothAxes], ringRelease := some .released
                            tiltRelease := some .released }
    ring := { setpoint := 0, velocity := 100, target := 65536000, up := true, pinch := 0 }
    tilt := { setpoint := 0, velocity := 10, target := 32768000, up := true, pinch := 0 }
    drive := { wagon.drive with
      ring := { wagon.drive.ring with released := true }, tilt := { wagon.drive.tilt with released := true } }
    inputs := { wagon.inputs with levels := 0xF9 } }

/-- The wagon with marks set. -/
def marked (l : List Due) (n : Node) : Node := { n with due := l }

/-- The wagon with frames in the receive queue. -/
def holding (l : List (List Byte)) (n : Node) : Node := { n with rx := { n.rx with queue := l } }

/-- A frame to the own group from station 0 of it. -/
def frame (kind : Nat) (payload : List Byte) : List Byte := header kind payload.length 679 679 0 11 ++ payload

theorem test_wagon_is_steady : wagon.Steady := by decide +kernel
theorem test_moving_is_steady : moving.Steady := by decide +kernel

/-! ## One state for the hypotheses of each statement, clause by clause -/

theorem witness_StepTakesFrontCommand :
    ({ State.reset with pending := [.burstStart, .jamEnd] } : State).pending = .burstStart :: [.jamEnd]
      ∧ State.reset.pending = [] := ⟨rfl, rfl⟩

theorem witness_NothingIsLeftOutstanding :
    wagon.rstnLow = false ∧ Instr.burstStart ≠ .rstnHeldLow ∧ ∃ t, exec .burstStart (of wagon) = .next t :=
  ⟨rfl, by decide, _, rfl⟩

theorem witness_NoEventNoChange :
    wagon.Steady ∧ wagon.due = [] ∧ wagon.drive.exchanging = false ∧ wagon.drive.ring.reading = false
      ∧ wagon.drive.tilt.reading = false ∧ wagon.monitor.turn = none ∧ wagon.rx.queue = []
      ∧ wagon.tx = { TxUnit.initial with random := wagon.tx.random } ∧ wagon.cue.phase ≠ .starting
      ∧ (Node.powerOn 2 0).Steady ∧ (Node.powerOn 2 0).inService = false ∧ (20 : Nat) < 21 ∧ 79 < 80 := by decide +kernel

/-- A slot with a frame on the line, and one in its backoff: the other side of the last clauses. -/
def sending : Node :=
  { wagon with tx := { wagon.tx with
    status := { state := .sending, content := frame 1 [], collisions := 3, replaced := false }
    driving := transmission (frame 1 []) } }

/-- The wagon's receiver in a state, its burst its own or not. -/
def receiving (m : RxMode) (own : Bool) (n : Node) : Node := { n with rx := { n.rx with mode := m, ownBurst := own } }

theorem witness_NoEventNoChange_bursts :
    (receiving .hunt false wagon).Steady ∧ (receiving .hunt false wagon).rx.mode ≠ .quiet
      ∧ (receiving .collect true wagon).Steady ∧ (receiving .collect true wagon).rx.mode ≠ .hunt
      ∧ wagon.rx.mode = .quiet := by decide +kernel

theorem witness_NoEventNoChange_slots :
    sending.Steady ∧ (sending.slot .status).state = .sending ∧ ∀ t, (sending.slot .halt).state ≠ .backoff t :=
  ⟨by decide +kernel, rfl, nofun⟩

theorem witness_RstnLowStopsEverything : (holdReset wagon).rstnLow = true := rfl

/-- A field of 0xFF bytes with a default, one stored, and one without a default; each check of R170 as the first to fail. -/
theorem witness_ConfigReadFormsAndJudges_copy :
    (Node.powerOn 2 0xE1).Steady ∧ (Node.powerOn 2 0xE1).cue.phase = .starting
      ∧ (Node.powerOn 2 0xE1).cfg.read = .waiting ∧ rawCopy.length = 148
      ∧ (78, 2, 32, 256, some 128) ∈ recordTable ∧ byteAt rawCopy 78 = 0xFF ∧ byteAt rawCopy 79 = 0xFF
      ∧ byteAt towCopy 76 ≠ 0xFF ∧ towCopy.length = 148
      ∧ (∀ f ∈ recordTable, f.2.2.2.2 ≠ none → 50 < f.1 ∨ f.1 + f.2.1 ≤ 50) := by decide +kernel

theorem witness_ConfigReadFormsAndJudges :
    judgeConfig [] 2 = .crc ∧ judgeConfig badCopy 2 = .field ∧ judgeConfig rawCopy 6 = .station
      ∧ judgeConfig towOnSeven 2 = .channel ∧ judgeConfig rawCopy 2 = .valid :=
  ⟨by decide +kernel, test_record_refused.1, test_record_valid.2, test_record_refused.2, test_record_valid.1⟩

/-- R169: MCS is low and the command goes out on MSI while the memory is read, at power-on and at a RESET. -/
theorem test_read_command_on_msi :
    (configReadStart (Node.powerOn 2 0)).cfg.msi = [0x03, 0x00, 0x00] ∧ (softReset wagon).cfg.mcsLow = true
      ∧ (configReadComplete [] (configReadStart (Node.powerOn 2 0))).cfg.mcsLow = false := by decide +kernel

/-- The part with the read of the memory under way, the pins as given. -/
def reading (pins : BitVec 8) : Node :=
  { Node.powerOn 2 pins with cfg := { Cfg.initial 2 with read := .reading } }

theorem witness_InvalidReadGivesConfigFault :
    (reading 0xE1).Listening ∧ (reading 0xE1).cue.phase = .starting ∧ (reading 0xE1).cfg.read = .reading
      ∧ (reading 0xE1).peers.allowance = true ∧ (reading 0xE1).tx.status.state = .empty
      ∧ judgeConfig [] 2 ≠ .valid := by decide +kernel

theorem witness_ValidReadStartsWagon :
    (reading 0xE1).Listening ∧ (reading 0xE1).cue.phase = .starting ∧ (reading 0xE1).cfg.read = .reading
      ∧ judgeConfig rawCopy (reading 0xE1).cfg.straps = .valid ∧ (reading 0xE1).faults = 0
      ∧ (reading 0xE1).chainClosed = true ∧ (reading 0xE1).cue.queue = []
      ∧ (∀ a, ((reading 0xE1).axisDrive a).released = false)
      ∧ (reading 0xE1).peers.allowance = true ∧ (reading 0xE1).tx.status.state = .empty :=
  ⟨by decide, rfl, rfl, test_record_valid.1, rfl, by decide, rfl, fun a => by cases a <;> rfl, rfl, rfl⟩

/-- With a kept fault, and with the chain open: the two ways to HALTED. -/
theorem witness_StartWithFaultHalts :
    judgeConfig rawCopy 2 = .valid ∧ (reading 0xE0).chainClosed = false ∧ (reading 0xE0).cue.queue = []
      ∧ (reading 0xE0).tx.halt.state = .empty ∧ ({ reading 0xE1 with faults := 0x1000 } : Node).faults ≠ 0
      ∧ ({ reading 0xE1 with faults := 0x1000 } : Node).Listening :=
  ⟨test_record_valid.1, by decide, rfl, rfl, by decide, by decide⟩

theorem witness_TickRunsEveryBlock :
    wagon.Listening ∧ TickBlock.exchange ∈ everyBlock ∧ TickBlock.followCheck ∈ everyBlock ∧ (Node.powerOn 2 0).inService = false
      ∧ wagon.Steady ∧ wagon.drive.exchanging = false ∧ wagon.drive.ring.reading = false ∧ wagon.drive.tilt.reading = false
      ∧ wagon.rx.queue = [] ∧ wagon.due = [] ∧ ∃ a, exec (.driveExchangeComplete none) (of wagon) = .next a :=
  ⟨by decide +kernel, by decide, by decide, rfl, by decide +kernel, rfl, rfl, rfl, rfl, rfl, _, rfl⟩

theorem witness_TickPlansNothingOutOfService :
    (reading 0xE1).Listening ∧ (reading 0xE1).cue.phase = .starting ∧ (reading 0xE1).rx.queue = []
      ∧ (reading 0xE1).due = []
      ∧ (startUnconfigured (reading 0xE1)).Listening
      ∧ (startUnconfigured (reading 0xE1)).cue.phase = .configFault := by decide +kernel

/-- The demand sum at the budget of 200, and one above it (R92). -/
def drawing (last : Byte) : Node :=
  { wagon with peers := { wagon.peers with entries :=
    [{ peer 0 with content := { (peer 0).content with demand := 180 } },
     { peer 1 with content := { (peer 1).content with demand := last } }] } }

theorem witness_MovingTickFollowsProfile_scale :
    (drawing 20).inService = true ∧ (drawing 20).demandSum = Live.supplyBudget (drawing 20).cfg.live
      ∧ (drawing 21).inService = true ∧ (drawing 21).demandSum = Live.supplyBudget (drawing 21).cfg.live + 1 := by
  decide +kernel

/-- The ends of an open arc and of a closed ring, a ring of two, and an entry of each freshness. -/
theorem witness_PeerTableViews :
    wagon.EntryLaw ∧ wagon.inService = true ∧ wagon.peers.map.fitted.Pairwise (· < ·) ∧ 0 ∈ wagon.peers.map.fitted
      ∧ 5 ∈ wagon.peers.map.fitted ∧ wagon.peers.map.closed = true
      ∧ (RingMap.mk false [0, 1, 2, 4, 5, 7]).fitted.Pairwise (· < ·) := by
  unfold EntryLaw
  decide +kernel

/-- R43, R48: the neighbours of the table's stations, and the projections of its first three lines with station 3 in their place. -/
theorem test_neighbours_and_projections :
    (RingMap.mk true [0, 1, 2, 4, 5, 7]).neighbours 0 = [7, 1] ∧ (RingMap.mk false [0, 1, 2, 4, 5, 7]).neighbours 0 = [1]
      ∧ (RingMap.mk true [0, 1, 2, 4, 5, 7]).neighbours 4 = [2, 5] ∧ (RingMap.mk true [3, 9]).neighbours 9 = [3]
      ∧ (RingMap.mk false [0, 1, 2, 4, 5, 7]).neighbours 7 = [5]
      ∧ [(Freshness.fresh, 2), (.fresh, 7), (.stale, 12), (.absent, 0)].map (fun x =>
          (putEntry 3 { peer 3 with
            freshness := x.1, age := x.2
            content := { (peer 3).content with ringPos := 20000, ringVel := -480 } } wagon).projections .ring)
        = [[0, 19997], [0, 19995], [0, 20000], [0]] := by decide +kernel

theorem witness_MovingTickIsBounded :
    moving.cue.phase = .moving ∧ moving.headMoves .ring = true ∧ moving.headMoves .tilt = true
      ∧ moving.release .ring = some .released ∧ moving.release .tilt = some .released
      ∧ moving.faults.has .estop = false ∧ moving.ringMode = .driven
      ∧ 0 ≤ (moving.planner .ring).remaining ∧ 0 ≤ (moving.planner .tilt).remaining
      ∧ (({ moving.ring with setpoint := 65536000 } : Planner).remaining = 0) := by decide +kernel

/-- The moving wagon alone on its ring: no neighbour has a projection. -/
def alone : Node := { moving with peers := { moving.peers with map := { closed := false, fitted := [2] } } }

/-- The moving wagon between its neighbours at two ring positions, in md. -/
def between (below above : Int) : Node :=
  putEntry 1 { peer 1 with content := { (peer 1).content with ringPos := below } }
    (putEntry 3 { peer 3 with content := { (peer 3).content with ringPos := above } } moving)

/-- R97 over the projections: the candidate stands, it is taken back to the forward bound, the bound lies behind the setpoint, and
the interval is empty. -/
theorem witness_MovingTickFollowsProfile_clamp :
    (between 0 100).projections .ring = [0, 100] ∧ (between 0 100).profileStep .ring = (between 0 100).ring.commit 257
      ∧ (between (-150) 0).projections .ring = [-150, 0] ∧ ((between (-150) 0).profileStep .ring).velocity = 0
      ∧ ((between (-151) 0).profileStep .ring).velocity = 0 ∧ ((between (-500) 500).profileStep .ring).velocity = 0 := by
  decide +kernel

theorem witness_MovingTickFollowsProfile :
    alone.cue.phase = .moving ∧ alone.headMove .ring = some { target := 1000, speed := 600 }
      ∧ alone.release .ring = some .released ∧ alone.faults.has .estop = false ∧ alone.ringMode = .driven
      ∧ alone.projections .ring = [] ∧ 0 < accelStep (Live.accel alone.cfg.live .ring)
      ∧ ¬(∃ e ∈ alone.peers.entries, e.freshness ≠ .absent ∧ e.content.ringMode = .towed) := by decide +kernel

theorem witness_MovingTickFollowsProfile_towed :
    let n : Node := { alone with peers := { alone.peers with entries :=
      [{ peer 4 with content := { (peer 4).content with ringMode := .towed } }] } }
    n.projections .ring = []
      ∧ ∃ e ∈ n.peers.entries, e.freshness ≠ .absent ∧ e.content.ringMode = .towed := by decide +kernel

/-- HALTED ramping under the head, both axes moving. -/
def ramping : Node :=
  { moving with cue := { moving.cue with phase := .halted, ramping := true, ringRelease := none, tiltRelease := none } }

theorem witness_OtherRegimesOfTick :
    moving.inService = true ∧ ({ moving with ringMode := .towed } : Node).ringMode = .towed
      ∧ ({ ramping with faults := 1 } : Node).faults.has .estop = true
      ∧ ramping.inService = true ∧ ramping.cue.phase = .halted ∧ ramping.cue.ramping = true
      ∧ 0 < (ramping.planner .ring).velocity ∧ 0 ≤ (ramping.planner .ring).remaining
      ∧ ramping.faults.has .estop = false ∧ ramping.ringMode = .driven
      ∧ ({ moving with cue := { moving.cue with phase := .holding } } : Node).inService = true
      ∧ ({ moving with cue := { moving.cue with phase := .stopping } } : Node).headMoves .ring = true
      ∧ wagon.inService = true ∧ wagon.headMoves .ring = false := by decide +kernel

/-- R101: the ramp of HOLDING takes the step 157 off a velocity memory of 200, and stops one of 100. -/
theorem test_controlled_ramp :
    let held (v : Nat) : Node := { moving with cue := { moving.cue with phase := .holding }, ring := { moving.ring with velocity := v } }
    ((held 200).planAxis .ring).ring.velocity = 43 ∧ ((held 200).planAxis .ring).ring.setpoint = 43
      ∧ ((held 100).planAxis .ring).ring.velocity = 0 := by decide +kernel

/-- Timers one and two ticks from their end; the settle count in band, one short of the end, and out of band. -/
theorem witness_TickAdvancesCounts :
    ({ wagon with peers := { wagon.peers with timer := some 1 } } : Node).peers.timer = some 1
      ∧ wagon.cue.permit = some 60 ∧ wagon.cfg.recheck = some 256
      ∧ ({ wagon with cue := { wagon.cue with phase := .armed, arm := 2, armRunning := true } } : Node).cue.arm = 2
      ∧ (let n : Node := { inPhase .settling [ringOnly] with
            drive := { wagon.drive with ring := { wagon.drive.ring with raw := 1005 } } }
         (n.measured .ring - 1000).natAbs = Live.inpos n.cfg.live .ring
          ∧ n.cue.settleCount + 1 < Live.settleTicks n.cfg.live)
      ∧ (let n : Node := { inPhase .settling [ringOnly] with
            drive := { wagon.drive with ring := { wagon.drive.ring with raw := 1006 } } }
         Live.inpos n.cfg.live .ring < (n.measured .ring - 1000).natAbs)
      ∧ (inPhase .settling []).cue.phase = .settling ∧ 24 + 1 = Live.settleTicks liveCopy := by decide +kernel

/-- Ages 9, 36 and 37 are the boundaries of the thresholds 9 and 36. -/
theorem witness_TickAdvancesCounts_ages :
    wagon.inService = true ∧ peer 0 ∈ wagon.peers.entries ∧ (0 : Nat) ≠ wagon.station
      ∧ Live.staleThreshold wagon.cfg.live = 9 ∧ Live.lostThreshold wagon.cfg.live = 36
      ∧ Counter.bump 8 = 9 ∧ Counter.bump 9 = 10 ∧ Counter.bump 35 = 36 ∧ Counter.bump 36 = 37 := by decide +kernel

/-- A brake CHANGING at 2, 1 and 0, and one AGREED, its feedback disagreeing (R148). -/
theorem witness_TickAdvancesCounts_brakes :
    let n (s : Supervision) (t : Nat) : Node := { wagon with
      inputs := { wagon.inputs with levels := 0xE9 }
      drive := { wagon.drive with ring := { wagon.drive.ring with supervision := s, brakeTimer := t } } }
    (n .changing 2).superviseBrake .ring = n .changing 1 ∧ ((n .changing 1).superviseBrake .ring).due = [.brake .ring]
      ∧ (n .changing 0).level 3 ≠ ((n .changing 0).axisDrive .ring).released
      ∧ (n .changing 0).inService = true ∧ (n .changing 0).faults.has .brake = false
      ∧ ((n .agreed 0).superviseBrake .ring).faults.has .brake = true
      ∧ (wagon.superviseBrake .ring) = wagon ∧ (reading 0).superviseBrake .ring = reading 0 := by decide +kernel

/-- A ring drive failure under a released ring brake: DRIVE_READY is false. -/
def ringFailed : Node := { moving with inputs := { moving.inputs with levels := 0x79 } }

theorem witness_TowDecision :
    ringFailed.inService = true ∧ ringFailed.level 7 = false ∧ ringFailed.drive.ring.released = true
      ∧ ringFailed.level 0 = true ∧ ringFailed.ringMode = .driven ∧ ringFailed.faults.has .drive = false
      ∧ Live.towPermitted ringFailed.cfg.live = false ∧ Live.towPermitted towCopy = true
      ∧ ringFailed.peers.map.closed = true ∧ (0 : Nat) < Live.towMax towCopy ∧ ringFailed.towedSet = []
      ∧ wagon.inService = true ∧ wagon.level 7 = true ∧ wagon.trippedWith actionTow = false := by decide +kernel

/-- R167: the third out-of-range reading of channel 1 trips it at this tick; Tow Logic finds the trip at the same tick where the
trip is taken first, and at the next where it is not. -/
theorem test_trip_before_tow_logic :
    let n : Node := { moving with
      cfg := { moving.cfg with live := towCopy.set 14 7 }
      monitor := { live := moving.monitor.live.set 1 { last := 501, outRun := 2, inRun := 0, tripped := false }
                   turn := some 1, converting := none } }
    (n.controlTick [.monitorTurn, .conversion 600, .expiry (.trip 1), .towLogic]).ringMode = .towed
      ∧ (n.controlTick [.towLogic, .monitorTurn, .conversion 600, .expiry (.trip 1)]).ringMode = .driven := by decide +kernel

theorem witness_TickChecksRaiseFaults :
    moving.inService = true ∧ moving.faults = 0
      ∧ (let n : Node := { moving with drive := { moving.drive with ring := { moving.drive.ring with raw := 211 } } }
         n.projections .ring = [0, 0]
          ∧ Live.window n.cfg.live .ring + Live.skewExcess n.cfg.live .ring < (n.measured .ring - 0).natAbs)
      ∧ (moving.axisDrive .tilt).released = true ∧ moving.level 0 = true ∧ moving.drive.reply.tiltReady = false
      ∧ (let n : Node := { moving with ring := { moving.ring with setpoint := 65536 * 101 } }
         (n.axisDrive .ring).supervision = .agreed
          ∧ Live.follow n.cfg.live .ring < (wholeUnits (n.planner .ring).setpoint - n.measured .ring).natAbs)
      ∧ ({ moving with inputs := { moving.inputs with levels := 0xFB } } : Node).level 1 = true
      ∧ moving.tilt.up = true ∧ moving.level 1 = false := by decide +kernel

theorem witness_RaisedFaultHalts :
    wagon.cue.phase ≠ .starting ∧ wagon.cue.phase ≠ .configFault ∧ wagon.faults.has .skew = false
      ∧ (reading 0).cue.phase = .starting ∧ ({ wagon with faults := 0x100 } : Node).faults.has .skew = true := by
  decide +kernel

/-- An exchange and both reads under way. -/
def linked : Node :=
  { wagon with drive := { wagon.drive with
    exchanging := true, failedExchanges := 1
    ring := { wagon.drive.ring with reading := true, readFails := 1 }, tilt := { wagon.drive.tilt with reading := true } } }

/-- A reply that echoes the setpoints sent. -/
def goodReply : DriveReply :=
  { checkCorrect := true, ringReady := true, tiltReady := true, faultCode := 0, echoRing := 0, echoTilt := 0 }

theorem witness_DriveExchangeJudged :
    linked.Steady ∧ linked.drive.exchanging = true ∧ goodReply.checkCorrect = true
      ∧ goodReply.echoRing = linked.drive.request.ringSetpoint ∧ goodReply.echoTilt = linked.drive.request.tiltSetpoint
      ∧ ({ goodReply with echoRing := 1 } : DriveReply).echoRing ≠ linked.drive.request.ringSetpoint := by decide +kernel

theorem witness_SensorReadJudged :
    linked.Steady ∧ (linked.axisDrive .ring).reading = true ∧ (linked.axisDrive .ring).readFails = 1
      ∧ (linked.axisDrive .tilt).reading = true ∧ (linked.axisDrive .tilt).readFails = 0
      ∧ linked.inService = true ∧ linked.faults.has .sensor = false := by decide +kernel

/-- An EMPTY slot, a waiting frame and one on the line: the clauses on the slot. -/
theorem witness_BuildWritesOwnStatus :
    wagon.tx.status.state = .empty ∧ sending.tx.status.state = .sending
      ∧ (sending.setSlot .status { sending.tx.status with state := .pending }).tx.status.state ≠ .empty
      ∧ (let m := marked [.statusPeriod] wagon
         m.Steady ∧ wagon = { m with due := m.due.filter (fun d => d ≠ .statusPeriod) } ∧ .statusPeriod ∈ m.due
          ∧ wagon.build.Calm ∧ wagon.build.statusEvent = false) := by decide +kernel

/-- R54, R139: the moving wagon beside a towed neighbour; its own ring towed with that neighbour, which breaks the limits; and a
build that changes nothing. -/
theorem witness_BuildWritesOwnStatus_tow :
    let beside := putEntry 1 { peer 1 with content := { (peer 1).content with ringMode := .towed } } moving
    let both : Node := { beside with ringMode := .towed }
    beside.demand = 30 + 15 + 10 ∧ moving.demand = 30 + 10 ∧ both.demand = 10 ∧ wagon.demand = 0
      ∧ peer 2 ∈ both.peers.entries ∧ both.station = 2 ∧ (peer 2).content.ringMode ≠ both.ringMode
      ∧ both.cue.phase = .moving ∧ both.headMoves .ring = true ∧ both.faults.has .tow = false
      ∧ both.build.faults.has .tow = true ∧ both.build.cue.phase = .halted ∧ beside.build.faults = 0 := by
  decide +kernel

/-- Contents at the bounds of the fields. -/
def extreme : Content :=
  { phase := .halted, ringMode := .towed, attention := true, haltedRamping := true, holds := 0x1F, faults := 0x1FFF
    current := 65535, lastDone := 258, ringPos := -8388608, ringVel := -32768, tilt := 65535, tiltVel := 32767
    demand := 255, digest := 0xBEEF, refusal := { id := 772, reason := .timeout } }

/-- R27: the payload of section 2.2 byte by byte, and the reserved bits ignored at its reading. -/
theorem witness_StatusPayloadFields :
    statusPayload extreme = [9, 7, 0x1F, 0x1F, 0xFF, 0xFF, 0xFF, 1, 2, 0x80, 0, 0, 0x80, 0, 0xFF, 0xFF, 0x7F, 0xFF, 0xFF,
        0xBE, 0xEF, 3, 4, 8]
      ∧ decodeStatus (statusPayload extreme) = extreme
      ∧ decodeStatus ((statusPayload extreme).set 1 0xFF |>.set 2 0xFF |>.set 3 0xFF) = extreme := by decide +kernel

/-- The wagon with the entry of station 3 at an age and freshness. -/
def aged (f : Freshness) (age : Counter) (n : Node) : Node :=
  putEntry 3 { peer 3 with freshness := f, age } n

/-- A held move: station 3 is STALE and hold cause PEER is present. -/
def silent : Node :=
  aged .stale 36 { moving with cue := { moving.cue with phase := .holding, holds := 2 } }

/-- IDLE with station 3 STALE. -/
def quietPeer : Node := aged .stale 36 { wagon with cue := { wagon.cue with holds := 2 } }

theorem witness_PeerEntryGoesStaleOrLost :
    let m := marked [.peerStale 3] (aged .fresh 9 moving)
    let e : Entry := { peer 3 with age := 9 }
    m.Steady ∧ m.inService = true ∧ .peerStale 3 ∈ m.due ∧ m.entry 3 = some e ∧ e.freshness = .fresh
      ∧ m.cue.holds.has .peer = false
      ∧ (({ m with
            due := m.due.filter (fun d => d ≠ .peerStale 3)
            peers := { m.peers with entries := m.peers.entries.map (fun x =>
              if x.station = 3 then { e with age := e.age.bump, freshness := .stale } else x) } } : Node).withCause
          .peer).Settles
      ∧ (let k := marked [.peerStale 5] (putEntry 5 { peer 5 with age := 9 } silent)
         k.Steady ∧ k.inService = true ∧ .peerStale 5 ∈ k.due ∧ k.entry 5 = some { peer 5 with age := 9 }
          ∧ k.cue.holds.has .peer = true
          ∧ (aged .stale 36 (putEntry 5 { peer 5 with age := 10, freshness := .stale } silent)).Calm) := by
  decide +kernel

theorem witness_PeerEntryGoesStaleOrLost_lost :
    let e : Entry := { peer 3 with age := 36, freshness := .stale }
    (let m := marked [.peerLost 3] silent
     m.Steady ∧ .peerLost 3 ∈ m.due ∧ m.entry 3 = some e ∧ m.cue.phase = .holding ∧ m.faults.has .peerLost = false)
      ∧ (let m := marked [.peerLost 3] quietPeer
         m.Steady ∧ .peerLost 3 ∈ m.due ∧ m.entry 3 = some e ∧ m.cue.phase = .idle
          ∧ (aged .lost 37 quietPeer).Calm) := by decide +kernel

/-- ARMED under the ring cue, before every peer is armed. -/
def armed : Node :=
  { inPhase .armed [ringOnly] with cue := { (inPhase .armed [ringOnly]).cue with arm := 1, armRunning := true } }

theorem witness_HeadArmsFailsOrTimesOut_expiry :
    let m := marked [.arm] armed
    m.Steady ∧ .arm ∈ m.due ∧ m.cue.phase = .armed ∧ m.cue.queue = ringOnly :: []
      ∧ ({ m with
            due := []
            cue := { m.cue with
              phase := .idle, queue := [], retired := [{ id := 6, how := .failed }]
              refusal := { id := 6, reason := .timeout }, arm := 0, armRunning := false
              ringRelease := none, tiltRelease := none }
            counters := { m.counters with retiredFailed := m.counters.retiredFailed.bump } } : Node).Settles := by
  decide +kernel

theorem witness_PermitRunsAndExpires_expiry :
    let m := marked [.permit] { moving with cue := { moving.cue with permit := some 1 } }
    m.Steady ∧ .permit ∈ m.due ∧ m.cue.phase ≠ .starting ∧ m.cue.permit = some 1
      ∧ (({ m with due := [], cue := { m.cue with permit := none } } : Node).withCause .permit).Settles := by
  decide +kernel

/-- A ring brake just commanded released: its feedback still says applied. -/
def lifting : Node :=
  { moving with
    cue := { moving.cue with ringRelease := some .releasing }
    inputs := { moving.inputs with levels := 0xF1 }
    drive := { moving.drive with ring := { moving.drive.ring with supervision := .changing, brakeTimer := 1 } } }

/-- HALTED stopped under a fault set, the ring brake just applied. -/
def haltedUnder (f : FaultSet) : Node :=
  { inPhase .halted [] with
    faults := f
    inputs := { wagon.inputs with levels := 0xE9 }
    drive := { wagon.drive with ring := { wagon.drive.ring with supervision := .changing, brakeTimer := 1 } } }

theorem witness_BrakeTimerAndPinchLimitHalt :
    (marked [.brake .ring] lifting).Steady ∧ (lifting.axisDrive .ring).supervision = .changing
      ∧ lifting.inService = true ∧ lifting.faults.has .brake = false
      ∧ (marked [.brake .ring] (haltedUnder 0x20)).Steady
      ∧ ((haltedUnder 0x20).axisDrive .ring).supervision = .changing ∧ (haltedUnder 0x20).faults.has .brake = true
      ∧ (marked [.pinch .ring, .pinch .tilt] moving).Steady ∧ moving.inService = true ∧ moving.faults.has .pinch = false
      ∧ (marked [.pinch .tilt] (haltedUnder 0x80)).Steady ∧ (haltedUnder 0x80).faults.has .pinch = true := by
  decide +kernel

/-- The wagon whose start digest is the live copy's, or another. -/
def digested (d : BitVec 16) : Node :=
  marked [.recheck] { wagon with cfg := { wagon.cfg with startDigest := digestOf liveCopy + d } }

theorem witness_UpsetIsFoundAtRecheck_recheck :
    .recheck ∈ (digested 0).due ∧ crc16 (((digested 0).cfg.live.drop 21).take 59) = (digested 0).cfg.startDigest
      ∧ crc16 (((digested 1).cfg.live.drop 21).take 59) ≠ (digested 1).cfg.startDigest
      ∧ (digested 1).inService = true ∧ (digested 1).faults.has .config = false
      ∧ (digested 0).Steady ∧ (digested 1).Steady := by
  refine ⟨by decide, ?_, ?_, by decide, by decide, ⟨⟨rfl, rfl⟩, rfl, by decide +kernel⟩,
    ⟨⟨rfl, rfl⟩, rfl, by decide +kernel⟩⟩
  · show digestOf liveCopy = digestOf liveCopy + 0; simp
  · show digestOf liveCopy ≠ digestOf liveCopy + 1; simp

/-- SETTLING under the ring cue, which station 0 is still executing. -/
def settling : Node :=
  putEntry 0 { peer 0 with content := { (peer 0).content with current := 6, phase := .moving } }
    { inPhase .settling [ringOnly] with
      cue := { (inPhase .settling [ringOnly]).cue with ringRelease := some .released, settleCount := 24 }
      drive := { wagon.drive with ring := { wagon.drive.ring with released := true } }
      inputs := { wagon.inputs with levels := 0xE9 } }

theorem witness_SettleCountReachedIsDone :
    (marked [.settle] settling).Steady ∧ settling.cue.phase = .settling
      ∧ ∃ e ∈ settling.peers.entries, e.station ≠ settling.station ∧ e.freshness ≠ .lost
          ∧ e.content.current = settling.currentCue ∧ e.content.phase ≠ .done
          ∧ e.content.lastDone ≠ settling.currentCue := by decide +kernel

/-- A conversion of channel 3 (REPORT, limits 0 and 500) under way. -/
def converting (r : LiveRecord) : Node :=
  { wagon with monitor := { live := wagon.monitor.live.set 3 r, turn := some 3, converting := some 0 } }

/-- The readings 500 and 501 are the two sides of the upper limit; the runs are one short of a trip and of an untrip. -/
theorem witness_MonitorConversionJudged :
    (converting { last := 0, outRun := 2, inRun := 0, tripped := false }).Steady
      ∧ (converting { last := 0, outRun := 0, inRun := 2, tripped := true }).Steady
      ∧ (converting LiveRecord.initial).inService = true
      ∧ Live.channelGain liveCopy 3 = 1024 ∧ Live.channelOffset liveCopy 3 = 0 ∧ Live.channelLo liveCopy 3 = 0
      ∧ Live.channelHi liveCopy 3 = 500 ∧ scaledValue 1024 0 500 = 500 ∧ scaledValue 1024 0 501 = 501 := by
  decide +kernel

/-- A conversion of channel 0 under way, as in the table of R162: limits −100 and 3300, tolerance 60, the reading 1023 worth
1826. The sensor held `tilt` at the tick of the conversion and holds `now` since. -/
def incline (tilt now : Int) : Node :=
  let copy := [(10, 0x00), (11, 0x3C), (80, 0x04), (81, 0x00), (98, 0x03), (99, 0x23), (100, 0xFF), (101, 0x9C), (102, 0x0C),
    (103, 0xE4)].foldl (fun l p => l.set p.1 p.2) liveCopy
  { wagon with
    cfg := { wagon.cfg with live := copy }
    monitor := { wagon.monitor with turn := some 0, converting := some tilt }
    drive := { wagon.drive with tilt := { wagon.drive.tilt with raw := now } } }

/-- The tilts 1886 and 1887 are the two sides of the tolerance. -/
theorem witness_MonitorConversionJudged_incline :
    (incline 1886 1900).Steady ∧ (incline 1887 1826).Steady ∧ (incline 1886 1900).inService = true
      ∧ Live.inclineTolerance (incline 0 0).cfg.live = 60 ∧ Live.channelLo (incline 0 0).cfg.live 0 = -100
      ∧ Live.channelHi (incline 0 0).cfg.live 0 = 3300
      ∧ scaledValue (Live.channelGain (incline 0 0).cfg.live 0) (Live.channelOffset (incline 0 0).cfg.live 0) 1023 = 1826 := by
  decide +kernel

/-- R160, R162: the tilt of the tick decides, whatever the read begun at that tick has brought since. -/
theorem test_incline_judged_by_tilt_of_its_tick :
    (((incline 1886 1900).convert 1023).liveRecord 0).outRun = 0
      ∧ (((incline 1887 1826).convert 1023).liveRecord 0).outRun = 1 := by decide +kernel

/-- R160: the tick keeps the tilt held then, and nothing where no channel has the turn. -/
theorem test_tick_keeps_its_tilt :
    ((incline 0 1850).runBlock .monitorTurn).monitor.converting = some 1850
      ∧ (wagon.runBlock .monitorTurn).monitor.converting = none := by decide +kernel

/-- The wagon with a channel tripped. -/
def trippedAt (c : Fin 8) (n : Node) : Node :=
  { n with monitor := { n.monitor with live := n.monitor.live.set c { last := 501, outRun := 0, inRun := 3, tripped := true } } }

/-- The channels 3, 2, 0 and 1 have the actions REPORT, HOLD, HALT and TOW. -/
theorem witness_MonitorTripActs_trip :
    let m := marked [.trip 3, .trip 2, .trip 0, .trip 1] wagon
    m.Steady ∧ m.inService = true ∧ Live.channelAction m.cfg.live 3 = actionReport
      ∧ Live.channelAction m.cfg.live 2 = actionHold ∧ Live.channelAction m.cfg.live 0 = actionHalt
      ∧ Live.channelAction m.cfg.live 1 = actionTow ∧ m.cue.holds.has .monitor = false ∧ m.faults.has .monitor = false
      ∧ (({ m with
            monitor := { m.monitor with live := m.monitor.live.set 2 { m.liveRecord 2 with tripped := true } }
            due := m.due.filter (fun d => d ≠ .trip 2) } : Node).withCause .monitor).Settles := by decide +kernel

theorem witness_MonitorTripActs_untrip :
    let held : Node := trippedAt 2 { wagon with cue := { wagon.cue with holds := 16 } }
    let off (n : Node) : Node := { n with
      monitor := { n.monitor with live := n.monitor.live.set 2 { n.liveRecord 2 with tripped := false } }
      due := n.due.filter (fun d => d ≠ .untrip 2) }
    (marked [.untrip 3, .untrip 0, .untrip 1] (trippedAt 0 (trippedAt 1 (trippedAt 3 wagon)))).Steady
      ∧ (marked [.untrip 2] held).Steady ∧ held.cue.holds.has .monitor = true
      ∧ (∀ d, d ≠ 2 → (held.liveRecord d).tripped = true → Live.channelAction held.cfg.live d ≠ actionHold)
      ∧ ((off (marked [.untrip 2] held)).withoutCause .monitor).Settles
      ∧ (marked [.untrip 2] (trippedAt 2 (reading 0xE1))).Listening
      ∧ (let two := { held with cfg := { held.cfg with live := liveCopy.set 17 3 } }
         (marked [.untrip 2] (trippedAt 4 two)).Steady ∧ (off (marked [.untrip 2] (trippedAt 4 two))).Calm) := by
  decide +kernel

/-- A HOLD channel that trips beside another, and a HALT channel that trips with MONITOR latched. -/
theorem witness_MonitorTripActs_again :
    let two := { wagon with cue := { wagon.cue with holds := 16 }
                            cfg := { wagon.cfg with live := liveCopy.set 17 3 } }
    (marked [.trip 2] (trippedAt 4 two)).Steady ∧ (trippedAt 4 two).cue.holds.has .monitor = true
      ∧ Live.channelAction two.cfg.live 2 = actionHold
      ∧ (marked [.trip 0] (haltedUnder 0x40)).Steady ∧ (haltedUnder 0x40).faults.has .monitor = true
      ∧ Node.finish false (takeDue (.trip 2) (marked [.trip 2] (trippedAt 4 two)))
          = { trippedAt 4 two with
              monitor := { (trippedAt 4 two).monitor with
                live := (trippedAt 4 two).monitor.live.set 2 { LiveRecord.initial with tripped := true } } } := by
  decide +kernel

/-- The deck not clear: hold cause PERSONNEL. -/
def boarded : Node :=
  { wagon with cue := { wagon.cue with holds := 4 }, inputs := { wagon.inputs with levels := 0xA1 } }

/-- The part with an input's level turned over, as a change leaves it. -/
def toggled (i : Fin 8) (n : Node) : Node :=
  let changed := n.inputs.changed ||| 1 <<< i.val
  { n with inputs :=
    { levels := n.inputs.levels ^^^ 1 <<< i.val, changed
      attention := decide (changed &&& n.attentionMask ≠ 0) || n.trippedWith actionReport } }

theorem witness_InputLevelChangeLatched :
    wagon.Steady ∧ wagon.level 0 = true ∧ wagon.level 7 ≠ false ∧ wagon.level 5 ≠ false ∧ (toggled 5 wagon).Calm
      ∧ wagon.level 6 ≠ false ∧ wagon.inService = true ∧ ((toggled 6 wagon).withCause .personnel).Settles
      ∧ boarded.Steady ∧ boarded.level 6 ≠ true ∧ boarded.inService = true
      ∧ ((toggled 6 boarded).withoutCause .personnel).Settles
      ∧ moving.Steady ∧ moving.level 5 ≠ false ∧ moving.headMove .tilt = some { target := 500, speed := 50 }
      ∧ ((toggled 5 moving).withCause .stowed).Settles
      ∧ (let n : Node := { moving with
            cue := { moving.cue with phase := .holding, holds := 8 }, inputs := { moving.inputs with levels := 0xD9 } }
         n.Steady ∧ n.level 5 ≠ true ∧ n.headMove .tilt = some { target := 500, speed := 50 }
          ∧ ((toggled 5 n).withoutCause .stowed).Settles) := by decide +kernel

theorem witness_ChainAndLimitsRaiseFaults :
    moving.Steady ∧ moving.inService = true ∧ moving.level 0 ≠ false ∧ moving.faults.has .estop = false
      ∧ (haltedUnder 1).Steady ∧ (haltedUnder 1).level 0 ≠ false ∧ (haltedUnder 1).faults.has .estop = true
      ∧ (toggled 0 (haltedUnder 1)).level 0 ≠ true
      ∧ moving.level 1 ≠ true ∧ moving.drive.tilt.released = true ∧ moving.tilt.up = true
      ∧ (toggled 1 moving).level 1 = true ∧ moving.faults.has .limit = false
      ∧ moving.level 2 ≠ true ∧ (toggled 2 moving).level 1 = false
      ∧ (haltedUnder 2).level 1 ≠ true ∧ (haltedUnder 2).faults.has .limit = true := by decide +kernel

theorem witness_BrakeFeedbackChange :
    (reading 0xE1).Steady ∧ ((reading 0xE1).axisDrive .ring).supervision = .unsupervised
      ∧ lifting.Steady ∧ (lifting.axisDrive .ring).supervision = .changing ∧ lifting.level 3 ≠ true
      ∧ (lifting.axisDrive .ring).released = true ∧ lifting.release .ring = some .releasing
      ∧ (((toggled 3 lifting).setAxisDrive .ring
            { lifting.axisDrive .ring with supervision := .agreed }).setRelease .ring (some .released)).Calm
      ∧ (haltedUnder 0x20).Steady ∧ (haltedUnder 0x20).level 3 ≠ false
      ∧ ((haltedUnder 0x20).axisDrive .ring).released = false
      ∧ (toggled 3 lifting).Steady ∧ ((toggled 3 lifting).axisDrive .ring).supervision = .changing
      ∧ (toggled 3 lifting).level 3 ≠ false
      ∧ (toggled 4 wagon).Steady ∧ (wagon.axisDrive .tilt).supervision = .agreed ∧ (toggled 4 wagon).level 4 ≠ false
      ∧ (wagon.axisDrive .tilt).released = false
      ∧ wagon.level 4 ≠ true ∧ wagon.inService = true ∧ wagon.faults.has .brake = false := by decide +kernel

theorem witness_ReceiverFindsFrame :
    wagon.Steady ∧ wagon.rx.mode = .quiet ∧ wagon.tx.driving = [] ∧ sending.Steady ∧ sending.rx.mode = .quiet
      ∧ sending.tx.driving ≠ [] ∧ ({ wagon with rx := { wagon.rx with ownBurst := true } } : Node).Steady ∧ (receiving .hunt false wagon).Steady ∧ (receiving .hunt false wagon).rx.mode = .hunt
      ∧ (receiving .collect false wagon).Steady ∧ (receiving .collect false wagon).rx.mode ≠ .quiet
      ∧ (receiving .collect false wagon).rx.mode ≠ .hunt := by decide +kernel

/-- A frame with its CRC, as the receiver takes it in. -/
def received (f : List Byte) : List Byte := f ++ bytesBE 2 (crc16 f).toNat

/-- A frame from the own tag and the own station. -/
def clashing : List Byte := header 6 0 679 679 2 0

/-- A STATUS from station 7, which is not of the ring. -/
def stranger : List Byte := header 1 24 679 679 7 0 ++ statusPayload { Content.zero with phase := .idle }

theorem stranger_crc_0 : ((stranger.take 16).foldl crcByte 0xFFFF) = 0xB332 := by decide +kernel
theorem stranger_crc : crc16 stranger = 0x1B65 := by
  unfold crc16; rw [crc_chunk, stranger_crc_0]; decide +kernel

/-- The byte counts 9 and 10, 210 and 211, and the queue lengths 7 and 8, are the boundaries of the clauses. -/
theorem witness_FrameEndJudged :
    let c := receiving .collect false wagon
    c.Steady ∧ wagon.rx.mode = .quiet ∧ (receiving .hunt false wagon).rx.mode = .hunt
      ∧ (receiving .collect true wagon).Steady ∧ (List.replicate 9 (0 : Byte)).length < 10
      ∧ 210 < (List.replicate 211 (0 : Byte)).length ∧ ¬210 < (List.replicate 210 (0 : Byte)).length
      ∧ (let b := received clashing
         b.length = 10 ∧ b.length = (byteAt b 1).toNat + 10 ∧ (crc16 (b.take 8)).toNat = field b 8 2
          ∧ c.inService = true ∧ frameSource (b.take 8) = Live.groupTag c.cfg.live ∧ frameStation (b.take 8) = c.station
          ∧ c.faults.has .address = false
          ∧ (receiving .collect false (haltedUnder 0x1000)).faults.has .address = true)
      ∧ (receiving .collect false (reading 0xE1)).Steady ∧ (reading 0xE1).cue.phase = .starting
      ∧ c.filterVerdict (frame 8 []) = .filtered
      ∧ (let b := received (frame 6 [0, 5])
         b.length = 12 ∧ b.length = (byteAt b 1).toNat + 10 ∧ (crc16 (b.take 10)).toNat = field b 10 2
          ∧ frameStation (b.take 10) ≠ c.station ∧ c.filterVerdict (b.take 10) = .accepted ∧ frameKind (b.take 10) ≠ 4)
      ∧ (let b := received (frame 4 [0, 31])
         (crc16 (b.take 10)).toNat = field b 10 2 ∧ c.filterVerdict (b.take 10) = .accepted ∧ frameKind (b.take 10) = 4)
      ∧ ((holding (List.replicate 7 clashing) c).rx.queue.length < 8) ∧ 8 ≤ (holding (List.replicate 8 clashing) c).rx.queue.length := by
  decide +kernel

theorem witness_FrameEndJudged_unexpected :
    let b := received stranger
    b.length = 34 ∧ b.length = (byteAt b 1).toNat + 10 ∧ (crc16 (b.take 32)).toNat = field b 32 2
      ∧ wagon.filterVerdict (b.take 32) = .unexpectedStation := by
  have h : received stranger = stranger ++ bytesBE 2 0x1B65 := by unfold received; rw [stranger_crc]; rfl
  have t : (stranger ++ bytesBE 2 0x1B65).take 32 = stranger := by decide +kernel
  simp only [h, t, stranger_crc]
  decide +kernel

theorem witness_AcceptanceFilter :
    wagon.groupTag ≠ 4095
      ∧ (let f := frame 2 (List.replicate 10 0)
         frameVersion f = 1 ∧ frameDestWord f < 4096 ∧ frameSourceWord f < 4096 ∧ frameStation f ≤ 31 ∧ frameKind f = 2)
      ∧ ¬ frameKind (frame 10 []) ≤ 9 ∧ ¬ 1 ≤ frameKind (frame 0 []) ∧ frameKind (frame 9 []) = 9 := by decide +kernel

/-- The wagon with a frame at the head of the queue, its owners finished with it or not. -/
def heading (f : List Byte) (x : Option FrameFate) (n : Node) : Node :=
  { n with rx := { n.rx with queue := [f], head := { n.rx.head with fate := x } } }

/-- A CUE of the ring to 1000 md for the group 679, and one for another group. -/
def cueFrame (id tag target : Nat) : List Byte :=
  frame 2 (bytesBE 2 id ++ [1] ++ bytesBE 2 tag ++ [1] ++ bytesBE 3 target ++ bytesBE 2 600)

theorem witness_FrameCompleteCounts :
    (heading (frame 6 [0, 5]) (some .accepted) wagon).Steady ∧ (heading (frame 1 []) (some .old) wagon).Steady
      ∧ (heading (frame 2 []) (some .filtered) wagon).Steady ∧ (heading (frame 6 [0, 5]) none wagon).Steady
      ∧ frameKind (frame 6 [0, 5]) ≠ 2 ∧ frameKind (frame 2 []) = 2 ∧ readCue ((frame 2 []).drop 8) = none
      ∧ (readCue ((cueFrame 6 680 1000).drop 8)).map (·.roster) = some [680] ∧ wagon.groupTag = 679
      ∧ (heading (cueFrame 6 680 1000) none wagon).Steady := by decide +kernel

/-- A STATUS from a station under a sequence. -/
def statusFrame (st : Nat) (seq : BitVec 8) (c : Content) : List Byte := header 1 24 679 679 st seq ++ statusPayload c

/-- The part with a STATUS taken into the entry of its station. -/
def taken (st : Nat) (seq : BitVec 8) (c : Content) (n : Node) : Node :=
  putEntry st { station := st, freshness := .fresh, age := 0, lastSeq := seq, content := c }
    { n with rx := { n.rx with head := { n.rx.head with fate := some .accepted } } }

/-- Sequences 10, 11, 137 and 138 against the last sequence 10: 0, 1, 127 and 128 ahead. -/
theorem witness_StatusTakenOrOld :
    let c := (peer 0).content
    let at' (st : Nat) (seq : BitVec 8) (c : Content) (n : Node) := heading (statusFrame st seq c) none n
    (at' 0 10 c wagon).Steady ∧ (frameSeq (statusFrame 0 10 c) - 10).toNat = 0
      ∧ (frameSeq (statusFrame 0 11 c) - 10).toNat = 1 ∧ (frameSeq (statusFrame 0 137 c) - 10).toNat = 127
      ∧ (frameSeq (statusFrame 0 138 c) - 10).toNat = 128 ∧ frameStation (statusFrame 0 11 c) = 0
      ∧ decodeStatus ((statusFrame 0 11 c).drop 8) = c ∧ (at' 0 11 c wagon).entry 0 = some (peer 0)
      ∧ (taken 0 11 c (at' 0 11 c wagon)).Calm
      ∧ (at' 3 11 c silent).Steady ∧ (at' 3 11 c silent).cue.holds.has .peer = true
      ∧ (taken 3 11 c (at' 3 11 c silent)).peerSilent = false
      ∧ ((taken 3 11 c (at' 3 11 c silent)).withoutCause .peer).Settles
      ∧ (let m := putEntry 1 { peer 1 with content := { c with ringMode := .towed } } moving
         let k := { c with ringMode := .towed }
         (at' 0 11 k m).Steady ∧ (taken 0 11 k (at' 0 11 k m)).towedSet ≠ (at' 0 11 k m).towedSet
          ∧ m.headMoves .ring = true ∧ (taken 0 11 k (at' 0 11 k m)).towBreach = true ∧ m.faults.has .tow = false) := by
  decide +kernel

/-- A CUE of the tilt, each station its own value. -/
def tiltFrame (id : Nat) (values : List Nat) : List Byte :=
  frame 2 (bytesBE 2 id ++ [1] ++ bytesBE 2 679 ++ [4] ++ [BitVec.ofNat 8 values.length] ++ values.flatMap (bytesBE 2)
    ++ bytesBE 2 50)

/-- The wagon with a CUE refused for a reason. -/
def refusedFor (id : CueId) (why : CueReason) (n : Node) : Node :=
  { n with
    rx := { n.rx with head := { n.rx.head with fate := some .accepted } }
    counters := { n.counters with cuesRefused := n.counters.cuesRefused.bump }
    cue := { n.cue with refusal := { id, reason := why } } }

/-- The wagon with its seats not stowed. -/
def unstowed : Node := { wagon with inputs := { wagon.inputs with levels := 0xC1 } }

/-- Four cues, none of them of the ids 6 to 9. -/
def fourCues : List Cue := [10, 11, 12, 13].map (fun i => { ringOnly with id := i })

/-- The ring limit 60000 and 60001, the tilt difference 150 and 151 (tilt_window), the queue of four, the refusal record
standing already, and the head that joins the queue. -/
theorem witness_CueJudged :
    let ok := heading (cueFrame 6 679 60000) none
    let far := heading (cueFrame 6 679 60001) none
    readCue ((cueFrame 6 679 60000).drop 8) = some { id := 6, roster := [679], ring := some (60000, 600), tilt := .none }
      ∧ wagon.groupTag = 679 ∧ readCue ((cueFrame 0 679 0).drop 8) = none
      ∧ (ok wagon).Steady ∧ (far wagon).Steady ∧ Live.ringMax liveCopy = 60000
      ∧ (ok (inPhase .armed [ringOnly])).Steady
      ∧ (ok (haltedUnder 2)).Steady ∧ (refusedFor 6 .state (ok (haltedUnder 2))).Settles
      ∧ (ok { haltedUnder 2 with cue := { (haltedUnder 2).cue with refusal := { id := 6, reason := .state } } }).Steady
      ∧ (ok (inPhase .armed fourCues)).Steady ∧ (refusedFor 6 .full (ok (inPhase .armed fourCues))).Settles
      ∧ (refusedFor 6 .range (far wagon)).Settles
      ∧ (let a := ok (inPhase .armed [{ ringOnly with id := 10 }])
         a.Steady ∧ ({ a with cue := { a.cue with queue := a.cue.queue
            ++ [{ ringOnly with ring := some { target := 60000, speed := 600 } }] } } : Node).Calm) := by decide +kernel

/-- R28, R40: the two records of the tests, and one record for each way to be malformed. -/
theorem witness_CueRecordFields :
    (readCue ((tiltFrame 7 [1, 2]).drop 8)) = some { id := 7, roster := [679], ring := none, tilt := .list [1, 2] 50 }
      ∧ [[0, 0, 1, 2, 167, 1, 0, 0, 9, 0, 1], [0, 7, 0, 1, 0, 0, 9, 0, 1], [0, 7, 1, 0, 0, 1, 0, 0, 9, 0, 1],
         [0, 7, 1, 15, 255, 1, 0, 0, 9, 0, 1], [0, 7, 1, 2, 167, 9, 0, 0, 9, 0, 1], [0, 7, 1, 2, 167, 6, 0, 9, 0, 1],
         [0, 7, 1, 2, 167, 0], [0, 7, 1, 2, 167, 4, 0, 0, 1], [0, 7, 1, 2, 167, 1, 0, 0, 9, 0], []].map readCue
        = List.replicate 10 none
      ∧ readCue [0, 7, 1, 2, 167, 3, 255, 255, 255, 0, 1, 0, 5, 0, 6] =
          some { id := 7, roster := [679], ring := some (-1, 1), tilt := .uniform 5 6 } := by decide +kernel

theorem witness_CueJudged_tilt :
    let w : Nat := Live.window liveCopy .tilt
    let steep := tiltFrame 7 [w + 1, 0, 0, 0, 0, 0]
    let even := tiltFrame 7 [w, 0, 0, 0, 0, 0]
    (readCue (steep.drop 8)).map (·.tilt) = some (.list [w + 1, 0, 0, 0, 0, 0] 50)
      ∧ wagon.peers.map.adjacent 0 1 = true ∧ (heading steep none wagon).Steady
      ∧ (refusedFor 7 .shape (heading steep none wagon)).Settles
      ∧ (readCue (even.drop 8)).map (·.tilt) = some (.list [w, 0, 0, 0, 0, 0] 50)
      ∧ (heading even none unstowed).Steady ∧ unstowed.level 5 = false
      ∧ (refusedFor 7 .stowed (heading even none unstowed)).Settles := by decide +kernel

theorem witness_HeadArmsFailsOrTimesOut :
    let n := inPhase .idle [ringOnly]
    let m : Node := { n with cfg := { n.cfg with startDigest := 8 } }
    n.cue.phase = .idle ∧ n.cue.queue = [ringOnly] ∧ n.faults = 0 ∧ n.statusEvent = false
      ∧ (∀ e ∈ n.peers.entries, e.freshness = .fresh) ∧ .arm ∉ n.due ∧ (n.axisDrive .ring).released = false
      ∧ (n.axisDrive .tilt).released = false ∧ n.cue.holds = n.wantedHolds ∧ m.cue.holds = m.wantedHolds
      ∧ (∀ e ∈ n.peers.entries, e.content.digest = n.cfg.startDigest)
      ∧ ({ n with cue := { n.cue with phase := .armed, arm := Live.armTicks n.cfg.live, armRunning := true } } : Node).Settles
      ∧ (∃ e ∈ m.peers.entries, e.content.digest ≠ m.cfg.startDigest) ∧ m.cue.refusal ≠ { id := 6, reason := .config }
      ∧ ({ m with
            cue := { m.cue with queue := [], retired := [{ id := 6, how := .failed }], refusal := { id := 6, reason := .config } }
            counters := { m.counters with retiredFailed := m.counters.retiredFailed.bump } } : Node).Settles := by
  decide +kernel

/-- A PERMIT for the group 679. -/
def permitFrame : List Byte := frame 3 ([1] ++ bytesBE 2 679)

/-- A move held for want of a permit. -/
def heldForPermit : Node :=
  heading permitFrame none { moving with cue := { moving.cue with phase := .holding, holds := 1, permit := none } }

theorem witness_PermitRunsAndExpires :
    (heading permitFrame none wagon).Steady ∧ frameKind permitFrame = 3 ∧ wagon.inService = true
      ∧ wagon.cue.permit ≠ none ∧ heldForPermit.Steady ∧ heldForPermit.cue.permit = none ∧ .permit ∉ heldForPermit.due
      ∧ (({ heldForPermit with
            rx := { heldForPermit.rx with head := { heldForPermit.rx.head with fate := some .accepted } }
            cue := { heldForPermit.cue with permit := some heldForPermit.permitTicks } } : Node).withoutCause
          .permit).Settles := by decide +kernel

/-- ARMED under the ring cue, every peer armed for it. -/
def agreed : Node :=
  let ready (e : Entry) : Entry := { e with content := { e.content with phase := .armed, current := 6 } }
  { armed with peers := { armed.peers with entries := armed.peers.entries.map ready } }

/-- Two stations beside each other towed. -/
def twoTowed (n : Node) : Node :=
  let towedNow (e : Entry) : Entry := if e.station < 2 then { e with content := { e.content with ringMode := .towed } } else e
  { n with peers := { n.peers with entries := n.peers.entries.map towedNow } }

theorem witness_MoveStarts :
    agreed.cue.phase = .armed ∧ agreed.cue.queue = ringOnly :: []
      ∧ (∀ e ∈ agreed.peers.entries, e.freshness = .fresh ∧ e.content.current = ringOnly.id ∧ e.content.phase = .armed)
      ∧ (∀ e ∈ agreed.peers.entries, e.station ≠ agreed.station → e.content.refusal.id ≠ ringOnly.id)
      ∧ agreed.cue.permit ≠ none ∧ agreed.cue.holds = 0 ∧ agreed.wantedHolds = 0
      ∧ agreed.refusedByPeer ringOnly.id = false ∧ agreed.faults = 0 ∧ agreed.statusEvent = false
      ∧ (∀ a ∈ [Axis.ring, Axis.tilt], (agreed.axisDrive a).released = false ∧ .brake a ∉ agreed.due)
      ∧ (∀ e ∈ agreed.peers.entries, e.station = agreed.station → e.content.ringMode = agreed.ringMode)
      ∧ agreed.towBreach = false ∧ ringOnly.ring = some { target := 1000, speed := 600 }
      ∧ (1000 : Int) * 65536 ≠ (agreed.planner .ring).setpoint
      ∧ (let n := twoTowed agreed
         n.towBreach = true ∧ n.allArmed ringOnly.id = true ∧ n.wantedHolds = 0 ∧ n.refusedByPeer ringOnly.id = false
          ∧ ∀ e ∈ n.peers.entries, e.station = n.station → e.content.ringMode = n.ringMode) := by decide +kernel

/-- R76, R148: the ring brake is released and CHANGING from 40 ticks; a feedback that says lifted already is RELEASED at once. -/
theorem test_move_starts :
    let b := Node.finish false agreed
    let stuck := Node.finish false { agreed with inputs := { agreed.inputs with levels := 0xE9 } }
    b.cue.phase = .moving ∧ b.drive.ring = { agreed.drive.ring with released := true, supervision := .changing, brakeTimer := 40 }
      ∧ b.release .ring = some .releasing ∧ stuck.release .ring = some .released
      ∧ (Node.finish false (twoTowed agreed)).cue.phase = .halted := by decide +kernel

/-- What the changes of phase start from: no event marked, the hold causes and the brakes in step. -/
abbrev InStep (n : Node) : Prop :=
  n.statusEvent = false ∧ n.cue.holds = n.wantedHolds
    ∧ ∀ a ∈ [Axis.ring, Axis.tilt], n.brakeCommand a = (n.axisDrive a).released

/-- A phase's cue control and nothing else of the wagon. -/
def withPhase (p : Phase) (n : Node) : Node := { n with cue := { n.cue with phase := p, armRunning := false } }

theorem witness_PhaseChangesFollow_hold_and_resume :
    let held : Node := { moving with inputs := { moving.inputs with levels := 0xB9 }, cue := { moving.cue with holds := 4 } }
    let free : Node := withPhase .holding moving
    InStep held ∧ held.cue.phase = .moving ∧ held.cue.holds ≠ 0 ∧ (withPhase .holding held).Settles
      ∧ InStep free ∧ free.cue.holds = 0 ∧ free.cue.permit ≠ none ∧ (∀ e ∈ free.peers.entries, e.freshness = .fresh)
      ∧ (withPhase .moving free).Settles := by decide +kernel

/-- The moving wagon with both axes at their targets, and with a towed ring within its band. -/
theorem witness_PhaseChangesFollow_arrival :
    let there : Node := { moving with
      ring := { moving.ring with setpoint := 65536000 }, tilt := { moving.tilt with setpoint := 32768000 } }
    let carried : Node := { there with
      ringMode := .towed, ring := { moving.ring with velocity := 0 }
      drive := { there.drive with ring := { there.drive.ring with raw := 995 } } }
    let settled (n : Node) : Node := { n with
      cue := { n.cue with phase := .settling, armRunning := false, settleCount := 0 }
      ring := { n.ring with velocity := 0 }, tilt := { n.tilt with velocity := 0 } }
    InStep there ∧ there.cue.holds = 0 ∧ (there.planner .ring).setpoint = (there.planner .ring).target
      ∧ (there.planner .tilt).setpoint = (there.planner .tilt).target ∧ (settled there).Settles
      ∧ InStep carried ∧ carried.release .ring = some .released
      ∧ (carried.measured .ring - wholeUnits carried.ring.target).natAbs = Live.inpos carried.cfg.live .ring
      ∧ (settled carried).nextConsequence true = none := by decide +kernel

theorem witness_PhaseChangesFollow_ends :
    let ramped : Node := { haltedUnder 1 with cue := { (haltedUnder 1).cue with ramping := true } }
    let refused : Node := putEntry 0 { peer 0 with content := { (peer 0).content with refusal := { id := 6, reason := .shape } } } armed
    let finished (e : Entry) : Entry := { e with content := { e.content with phase := .done, current := 6 } }
    let allDone : Node := { inPhase .done [ringOnly] with
      peers := { wagon.peers with entries := wagon.peers.entries.map finished } }
    let stopped : Node := { moving with
      cue := { moving.cue with phase := .stopping }
      ring := { moving.ring with velocity := 0 }, tilt := { moving.tilt with velocity := 0 } }
    let idle (how : CueEnd) (n : Node) : Node := { n with cue := { n.cue with
      phase := .idle, armRunning := false, queue := [], retired := [{ id := 6, how }] } }
    InStep ramped ∧ ramped.cue.phase = .halted ∧ ramped.ring.velocity = 0 ∧ ramped.tilt.velocity = 0
      ∧ ({ ramped with cue := { ramped.cue with ramping := false } } : Node).Settles
      ∧ InStep refused ∧ (∃ e ∈ refused.peers.entries, e.station ≠ refused.station ∧ e.freshness = .fresh
          ∧ e.content.refusal.id = ringOnly.id)
      ∧ (let m := idle .failed refused
         ({ m with cue := { m.cue with refusal := { id := 6, reason := .peerRefused } }
                   counters := { m.counters with retiredFailed := m.counters.retiredFailed.bump } } : Node).Settles)
      ∧ InStep allDone ∧ (∀ e ∈ allDone.peers.entries, e.content.current = ringOnly.id ∧ e.content.phase = .done)
      ∧ (let m := idle .done allDone
         ({ m with cue := { m.cue with lastDone := 6 }
                   counters := { m.counters with retiredDone := m.counters.retiredDone.bump } } : Node).Settles)
      ∧ InStep stopped ∧ stopped.cue.queue = bothAxes :: [] ∧ (Node.finish false stopped).cue.phase = .idle
      ∧ (Node.finish false stopped).drive.ring.released = false := by decide +kernel

/-- A HALT of a panel waiting to be delivered. -/
def halting (n : Node) : Node := { n with rx := { n.rx with halts := [{ reason := .panel, origin := 31 }] } }

theorem witness_HaltDelivered :
    (halting moving).rstnLow = false ∧ (halting moving).statusEvent = false ∧ (halting moving).Calm
      ∧ (halting moving).rx.halts = [{ reason := .panel, origin := 31 }] ∧ moving.cue.phase ≠ .halted
      ∧ moving.inService = true ∧ (halting (haltedUnder 1)).Calm ∧ (haltedUnder 1).cue.phase = .halted
      ∧ (halting (reading 0xE1)).Calm ∧ (reading 0xE1).inService = false
      ∧ Instr.cancel ≠ .halt ∧ ∃ t, exec .halt (of (halting moving)) = .next t :=
  ⟨rfl, rfl, by decide +kernel, rfl, by decide, rfl, by decide +kernel, rfl, by decide +kernel, rfl, by decide, _, rfl⟩

/-- A CLEAR of all latches, with its fault and tow parts or without. -/
def clearFrame (flags : Byte) : List Byte := frame 5 [flags, 0xFF, 0x00]

/-- A towed wagon. -/
def towed (n : Node) : Node := { n with ringMode := .towed }

theorem witness_ClearLatchAndTowParts :
    (heading (clearFrame 1) none wagon).Steady ∧ (heading (clearFrame 0) none wagon).Steady
      ∧ frameKind (clearFrame 1) = 5 ∧ (byteAt (clearFrame 1) 8).getLsbD 0 = true
      ∧ (byteAt (clearFrame 0) 8).getLsbD 0 = false ∧ wagon.rx.head.latchDone = false ∧ wagon.rx.head.towDone = false
      ∧ wagon.ringMode ≠ .towed
      ∧ (let m := heading (clearFrame 1) none (towed wagon)
         m.Steady ∧ m.cue.phase = .idle ∧ m.ringMode = .towed ∧ m.level 7 = true ∧ m.trippedWith actionTow = false
          ∧ m.cue.phase ≠ .starting
          ∧ ({ m with
                ringMode := .driven
                rx := { m.rx with head := { m.rx.head with towDone := true, breach := some false, fate := none } } } : Node).Settles)
      ∧ (let m := heading (clearFrame 1) none (towed (withPhase .armed agreed))
         ({ m with rx := { m.rx with head := { m.rx.head with freed := true } } } : Node).rx.head.freed = true) := by
  decide +kernel

/-- A CLEAR at the head under a fault set: LIMIT (bit 1) is absent, ESTOP (bit 0) with the chain open is not. -/
def clearing (f : FaultSet) (levels : BitVec 8) : Node :=
  heading (clearFrame 1) none
    { haltedUnder f with inputs := { wagon.inputs with levels }, drive := wagon.drive }

/-- After the fault part, the set kept. -/
def clearedTo (f : FaultSet) (n : Node) : Node :=
  { n with rx := { n.rx with head := { n.rx.head with faultDone := true } }, faults := f }

theorem witness_ClearFaultPart :
    (heading (clearFrame 1) none moving).Steady ∧ moving.cue.phase ≠ .halted
      ∧ (heading (clearFrame 1) none ramping).Steady ∧ ramping.cue.ramping = true
      ∧ (clearing 1 0xE0).Steady ∧ (clearing 1 0xE0).cue.phase = .halted ∧ (clearing 1 0xE0).cue.ramping = false
      ∧ (clearing 1 0xE0).level 0 = false
      ∧ (clearing 3 0xE0).Steady ∧ (clearing 3 0xE0).level 1 = false ∧ (clearing 3 0xE0).level 2 = false
      ∧ (clearedTo 1 (clearing 3 0xE0)).Settles
      ∧ (clearing 3 0xE1).Steady
      ∧ (let n := clearedTo 0 (clearing 3 0xE1)
         ({ n with
            rx := { n.rx with head := { n.rx.head with freed := true } }
            cue := { n.cue with phase := .idle, armRunning := false, ringRelease := none, tiltRelease := none } } : Node).Settles) := by
  decide +kernel

/-- The part after commands, one after the other. -/
def after (l : List Instr) (n : Node) : Node :=
  l.foldl (fun n c => match exec c (of n) with | .next s => s.node | _ => n) n

/-- R136: the fault part of a CLEAR takes a towed wagon out of HALTED and on to ARMED; the tow part of the same CLEAR acts, in
either order. -/
theorem test_tow_part_does_not_depend_on_fault_part :
    let n : Node := towed { clearing 2 0xE1 with cue := { (clearing 2 0xE1).cue with queue := [ringOnly] } }
    (after [.clearFaultPart, .clearTowPart] n).cue.phase = .armed
      ∧ (after [.clearFaultPart, .clearTowPart] n).ringMode = .driven
      ∧ (after [.clearTowPart, .clearFaultPart] n).ringMode = .driven := by decide +kernel

/-- R127, chapter 7, Two Wagons Decide Together, the first CLEAR at station 3: its tow part makes it DRIVEN and builds, and its
fault part still keeps TOW, in either order. -/
theorem test_fault_part_does_not_depend_on_tow_part :
    let n : Node := towed (putEntry 3 { peer 3 with content := { (peer 3).content with ringMode := .towed } }
      (putEntry 2 { peer 2 with content := { (peer 2).content with ringMode := .towed } } (clearing 0x400 0xE1)))
    (after [.clearTowPart, .clearFaultPart] n).faults = 0x400 ∧ (after [.clearTowPart, .clearFaultPart] n).towBreach = false
      ∧ (after [.clearTowPart, .clearFaultPart] n).ringMode = .driven
      ∧ (after [.clearFaultPart, .clearTowPart] n).faults = 0x400 := by decide +kernel

/-- A CANCEL of an id. -/
def cancelFrame (id : Nat) : List Byte := frame 6 (bytesBE 2 id)

/-- The part with the CANCEL taken. -/
def cancelled (n : Node) : Node := { n with rx := { n.rx with head := { n.rx.head with fate := some .accepted } } }

/-- The part with the queue left and the id retired CANCELLED. -/
def retiring (id : CueId) (q : List Cue) (n : Node) : Node :=
  { n with cue := { n.cue with queue := q, retired := [{ id, how := .cancelled }] }
           counters := { n.counters with retiredCancelled := n.counters.retiredCancelled.bump } }

theorem witness_CancelActs :
    let five := heading (cancelFrame 5) none
    let six := heading (cancelFrame 6) none
    (five wagon).Steady ∧ wagon.cue.queue = []
      ∧ (heading (cancelFrame 9) none (inPhase .armed [ringOnly, bothAxes])).Steady
      ∧ (five (inPhase .armed [ringOnly, bothAxes])).Steady ∧ ringOnly.id ≠ 5 ∧ bothAxes.id = 5
      ∧ (six (inPhase .halted [ringOnly])).Steady ∧ (retiring 6 [] (cancelled (six (inPhase .halted [ringOnly])))).Calm
      ∧ (let n := six { inPhase .idle [ringOnly] with faults := 0
                                                      peers := (aged .absent 0 wagon).peers }
         n.Steady ∧ (retiring 6 [] (cancelled n)).Calm)
      ∧ (six armed).Steady ∧ armed.cue.phase = .armed
      ∧ (let m := retiring 6 [] (cancelled (six armed))
         ({ m with cue := { m.cue with phase := .idle, armRunning := false, ringRelease := none
                                       tiltRelease := none } } : Node).Settles)
      ∧ (five moving).Steady ∧ (five silent).Steady ∧ silent.cue.phase = .holding
      ∧ (let m := cancelled (five moving)
         ({ m with cue := { m.cue with phase := .stopping, armRunning := false } } : Node).Settles)
      ∧ (let m := cancelled (five silent)
         ({ m with cue := { m.cue with phase := .stopping, armRunning := false } } : Node).Settles)
      ∧ (six settling).Steady ∧ settling.cue.phase = .settling := by decide +kernel

theorem witness_InquireAnswered :
    (heading (frame 7 [2, 1, 1]) none wagon).Steady ∧ frameKind (frame 7 [2, 1, 1]) = 7
      ∧ wagon.tx.report.state = .empty
      ∧ (heading (frame 7 [2, 6, 0]) none (sending.setSlot .report { wagon.tx.report with state := .pending })).Steady
      ∧ (byteAt (frame 7 [2, 5, 0]) 9).toNat = 5 ∧ (byteAt (frame 7 [2, 6, 0]) 9).toNat = 6 := by decide +kernel

theorem witness_ResetRefusedOrTaken :
    (heading (frame 9 [2]) none moving).Steady ∧ frameKind (frame 9 [2]) = 9 ∧ moving.cue.phase = .moving
      ∧ (heading (frame 9 [2]) none ramping).Steady ∧ ramping.cue.ramping = true
      ∧ (heading (frame 9 [2]) none wagon).Steady ∧ wagon.cue.phase = .idle
      ∧ (heading (frame 9 [2]) none (haltedUnder 1)).Steady ∧ (haltedUnder 1).cue.ramping = false := by decide +kernel

/-- The wagon with a STATUS waiting, and a HALT too. -/
def waitingStatus : Node := wagon.setSlot .status (Slot.fresh (frame 1 []))
def waitingBoth : Node := waitingStatus.setSlot .halt (Slot.fresh (frame 4 [0, 2]))
def waitingReport : Node := wagon.setSlot .report (Slot.fresh (frame 8 [0]))

/-- R1: a quiet time below the one counted since the last burst leaves it; the node's own cells make it 0. -/
theorem test_quiet_time :
    let heard (q : BitVec 8) : Node := { waitingStatus with rx := { waitingStatus.rx with quietTime := q } }
    (arbiterStart 8 (heard 20)).rx.quietTime = 20 ∧ ((arbiterStart 8 (heard 20)).slot .status).state = .pending
      ∧ (arbiterStart 24 (heard 20)).rx.quietTime = 0 ∧ ((arbiterStart 24 (heard 20)).slot .status).state = .sending
      ∧ (arbiterStart 23 (heard 20)).rx.quietTime = 23 := by decide +kernel

/-- HALT is ready at 12 and not at 11, STATUS and REPORT at 24 and not at 23. -/
theorem witness_ArbiterStartsSlot :
    waitingBoth.Steady ∧ waitingBoth.rx.mode = .quiet ∧ (waitingBoth.slot .halt).state = .pending
      ∧ (waitingBoth.slot .status).state = .pending ∧ waitingBoth.cue.phase ≠ .starting
      ∧ waitingStatus.Steady ∧ (waitingStatus.slot .halt).state = .empty ∧ (waitingStatus.slot .status).state = .pending
      ∧ waitingReport.Steady ∧ (waitingReport.slot .status).state = .empty ∧ (waitingReport.slot .report).state = .pending
      ∧ (reading 0xE1).Steady ∧ (reading 0xE1).cue.phase = .starting
      ∧ (12 : BitVec 8).toNat = 12 ∧ (24 : BitVec 8).toNat = 24 := by decide +kernel

/-- The frame on the line after so many collisions, or its jam. -/
def colliding (k : SlotKind) (x : Counter) (jam : Option Bool) (g : BitVec 16) : Node :=
  let n := wagon.setSlot k { state := .sending, content := frame 1 [], collisions := x, replaced := false }
  { n with tx := { n.tx with driving := lineCells [0x55], jam, random := g } }

theorem witness_TransmissionEndsOrCollides :
    (colliding .status 0 none 1).Steady ∧ ((colliding .status 0 none 1).slot .status).state = .sending
      ∧ ((colliding .status 0 none 1).slot .halt).state ≠ .sending
      ∧ ((colliding .status 0 none 1).slot .report).state ≠ .sending ∧ (colliding .status 0 none 1).tx.jam = none
      ∧ (colliding .halt 9 none 1).Steady ∧ (63 : Nat) < 64 := by decide +kernel

/-- Collision counts 9 and 10, a late collision, a HALT frame, and a backoff of 0 (from the source 4). -/
theorem witness_JamEndsInBackoffOrDrop :
    (colliding .status 9 (some false) 1).Steady ∧ ((colliding .status 9 (some false) 1).slot .status).collisions.toNat = 9
      ∧ (colliding .status 10 (some false) 1).Steady ∧ (colliding .report 1 (some true) 1).Steady
      ∧ (colliding .halt 10 (some true) 4).Steady ∧ (randomStep 4).toNat % 2 ^ 1 = 0
      ∧ (wagon.setSlot .status { Slot.fresh [] with state := .backoff 64 }).Steady
      ∧ ((wagon.setSlot .status { Slot.fresh [] with state := .backoff 64 }).slot .status).state = .backoff 64 := by
  decide +kernel

theorem witness_UpsetIsFoundAtRecheck :
    wagon.Steady ∧ wagon.inService = true ∧ 21 ≤ 79 ∧ 79 < wagon.cfg.live.length := by decide +kernel

/-! The laws hold of the moving wagon, and a step leads on from it: the hypotheses of the statements about every step. -/

theorem moving_bounds :
    moving.CueLaw ∧ moving.ReceiveLaw ∧ moving.ScaleLaw ∧ moving.FailureLaw ∧ moving.RunLaw ∧ moving.EntryLaw := by
  unfold CueLaw ReceiveLaw ScaleLaw FailureLaw RunLaw EntryLaw
  decide +kernel

theorem witness_BoundsAreKept :
    (∃ t, exec (.controlTick []) (of moving) = .next t) ∧ moving.CueLaw ∧ moving.ReceiveLaw ∧ moving.ScaleLaw
      ∧ moving.FailureLaw ∧ moving.RunLaw ∧ moving.EntryLaw :=
  ⟨⟨_, rfl⟩, moving_bounds⟩

/-- The bounds with nothing to spare: four cues and four retired, eight frames, the scales 32 and 256, failure counts of 2. -/
theorem witness_BoundsAreKept_full :
    ({ wagon with cue := { wagon.cue with queue := fourCues, retired := [1, 2, 3, 4].map (fun i => ⟨i, .done⟩) } } : Node).CueLaw
      ∧ (holding (List.replicate 8 []) wagon).ReceiveLaw ∧ ({ wagon with supplyScale := 32 } : Node).ScaleLaw
      ∧ wagon.ScaleLaw
      ∧ ({ wagon with drive := { wagon.drive with failedExchanges := 2 } } : Node).FailureLaw := by
  unfold CueLaw ReceiveLaw ScaleLaw FailureLaw
  decide +kernel

theorem witness_BrakesAndHoldsStayInStep :
    (∃ t, exec (.controlTick []) (of moving) = .next t) ∧ moving.BrakeLaw ∧ moving.HoldLaw := by
  refine ⟨⟨_, rfl⟩, ?_, ?_⟩
  · rintro (_ | _) - <;> exact ⟨by decide +kernel, ⟨_, rfl⟩, .inl ⟨.inl rfl, by decide +kernel⟩⟩
  · unfold HoldLaw
    refine ⟨by decide +kernel, by decide +kernel, by decide +kernel, ?_, by decide +kernel⟩
    exact ⟨fun h => absurd h (by decide +kernel), fun h => absurd h.2.1 (by decide +kernel)⟩

theorem witness_MovingIsAlwaysClear :
    (∃ t, exec (.controlTick []) (of moving) = .next t) ∧ moving.FaultLaw ∧ moving.HeardLaw ∧ moving.MovingLaw
      ∧ moving.cue.phase = .moving := by
  refine ⟨⟨_, rfl⟩, ?_⟩
  unfold FaultLaw HeardLaw MovingLaw
  decide +kernel

theorem witness_SetpointsNeverPassTargets :
    (∃ t, exec (.controlTick []) (of moving) = .next t) ∧ moving.FaultLaw ∧ moving.CourseLaw := by
  refine ⟨⟨_, rfl⟩, by unfold FaultLaw; decide +kernel, by decide +kernel, by decide +kernel, ?_⟩
  rintro (_ | _) - <;> decide +kernel

theorem moving_limits : moving.LimitLaw := by
  refine ⟨by decide +kernel, by decide +kernel, fun _ => ⟨test_record_fields, ?_⟩⟩
  rintro (_ | _) <;> refine ⟨by decide +kernel, by decide +kernel, by decide +kernel, by decide +kernel, by decide +kernel, ?_⟩ <;>
    rintro c hc m hm <;> cases List.mem_singleton.mp hc <;> cases hm <;> decide +kernel

theorem witness_SetpointsKeepSoftLimits :
    (∃ t, exec (.controlTick []) (of moving) = .next t ∧ t.node.inService = true ∧ t.node.faults.has .estop = false
        ∧ t.node.ringMode = .driven)
      ∧ moving.FaultLaw ∧ moving.CourseLaw ∧ moving.LimitLaw :=
  ⟨⟨_, rfl, by decide +kernel, by decide +kernel, by decide +kernel⟩, witness_SetpointsNeverPassTargets.2.1,
    witness_SetpointsNeverPassTargets.2.2, moving_limits⟩

/-- A fault cleared by the fault part of a CLEAR, and one by power-on. -/
theorem witness_FaultsAreClearedOnlyByClear :
    (∃ t, exec .clearFaultPart (of (clearing 3 0xE1)) = .next t ∧ t.node.faults.has .limit = false)
      ∧ (clearing 3 0xE1).faults.has .limit = true
      ∧ (∃ t, exec (.powerOn 2 0) (of (clearing 3 0xE1)) = .next t ∧ t.node.faults.has .limit = false)
      ∧ (clearing 3 0xE1).Steady ∧ (clearing 3 0xE1).due = [] ∧ (clearing 3 0xE1).drive.exchanging = false
      ∧ ∃ t, exec (.controlTick []) (of (clearing 3 0xE1)) = .next t ∧ t.node.faults.has .limit = false :=
  ⟨⟨_, rfl, by decide +kernel⟩, by decide +kernel, ⟨_, rfl, by decide +kernel⟩, by decide +kernel, rfl, rfl, _, rfl,
    by decide +kernel⟩

end Sys2Proof.Machine.Tests
end

section
/-! The family of drive and sensors: DRIVE_EXCHANGE_COMPLETE (R141) and SENSOR_READ_COMPLETE (R144, R145). Both write the
links and their counts alone, which bring nothing with them between ticks; only SENSOR, raised, brings more. -/

namespace Sys2Proof.Machine

namespace Node

/-! ### What a write to the links leaves at rest -/

/-- Between ticks, what follows of itself reads of the drive side the brake outputs only (R147), and no counter: the measured
position of a towed ring is judged at ticks alone (R106). -/
theorem nextConsequence_links {n : Node} {d : Drive} (c : Counters) (hring : d.ring.released = n.drive.ring.released)
    (htilt : d.tilt.released = n.drive.tilt.released) :
    ({ n with drive := d, counters := c } : Node).nextConsequence false = n.nextConsequence false := by
  have hbrake (a : Axis) : ({ n with drive := d, counters := c } : Node).brakeCommand a = n.brakeCommand a := by
    cases a <;> rfl
  have hphase : ({ n with drive := d, counters := c } : Node).phaseConsequence false = n.phaseConsequence false := rfl
  have hholds : ({ n with drive := d, counters := c } : Node).wantedHolds = n.wantedHolds := rfl
  simp only [nextConsequence, hbrake, hholds, hphase, hring, htilt]

/-- A write to an axis that leaves its brake output, and any counting with it, leaves a calm part calm. -/
theorem calm_setAxisDrive {n : Node} {a : Axis} {d : AxisDrive} (c : Counters) (h : n.Calm)
    (hd : d.released = (n.axisDrive a).released) : ({ n.setAxisDrive a d with counters := c } : Node).Calm := by
  cases a with
  | ring => exact (nextConsequence_links (n := n) (d := { n.drive with ring := d }) c hd rfl).trans h
  | tilt => exact (nextConsequence_links (n := n) (d := { n.drive with tilt := d }) c rfl hd).trans h

/-! ### The exchange (R141) -/

theorem replyGood_iff (n : Node) (r : DriveReply) :
    n.replyGood r = true ↔ r.checkCorrect = true ∧ r.echoRing = n.drive.request.ringSetpoint
      ∧ r.echoTilt = n.drive.request.tiltSetpoint := by
  simp [replyGood, and_assoc]

theorem completeExchange_good {n : Node} {r : DriveReply} (hx : n.drive.exchanging = true) (hr : n.replyGood r = true) :
    completeExchange (some r) n = { n with drive := { n.drive with
      exchanging := false, failedExchanges := 0
      reply := { ringReady := r.ringReady, tiltReady := r.tiltReady, faultCode := r.faultCode } } } := by
  unfold completeExchange
  rw [if_pos hx]
  exact if_pos hr

theorem completeExchange_failed {n : Node} {reply : Option DriveReply} (hx : n.drive.exchanging = true)
    (hr : ∀ r, reply = some r → ¬n.replyGood r = true) :
    completeExchange reply n = { n with drive := { n.drive with
      exchanging := false, failedExchanges := min 2 (n.drive.failedExchanges + 1) } } := by
  unfold completeExchange
  rw [if_pos hx]
  cases reply with
  | none => rfl
  | some r => exact if_neg (hr r rfl)

/-! ### The reads (R144, R145) -/

/-- The part with a failed read kept and counted, before SENSOR is judged (R145). -/
def readFailed (a : Axis) (n : Node) : Node :=
  let d := n.axisDrive a
  { n.setAxisDrive a { d with reading := false, readFails := min 2 (d.readFails + 1) } with
    counters := { n.counters with sensorFailures := n.counters.sensorFailures.bump } }

@[simp] theorem readFailed_cue (a : Axis) (n : Node) : (readFailed a n).cue = n.cue := setAxisDrive_cue _ _ _
@[simp] theorem readFailed_faults (a : Axis) (n : Node) : (readFailed a n).faults = n.faults := setAxisDrive_faults _ _ _
@[simp] theorem readFailed_statusEvent (a : Axis) (n : Node) : (readFailed a n).statusEvent = n.statusEvent :=
  setAxisDrive_statusEvent _ _ _
@[simp] theorem readFailed_inService (a : Axis) (n : Node) : (readFailed a n).inService = n.inService := by
  simp [inService]

theorem calm_readFailed {n : Node} (a : Axis) (h : n.Calm) : (readFailed a n).Calm := calm_setAxisDrive _ h rfl

theorem completeRead_some {n : Node} {a : Axis} (hread : (n.axisDrive a).reading = true) (v : Int) :
    completeRead a (some v) n = n.setAxisDrive a { n.axisDrive a with reading := false, raw := v, readFails := 0 } :=
  if_pos hread

/-- A failed read raises SENSOR just when the one before it failed too (R145). -/
theorem completeRead_none {n : Node} {a : Axis} (hread : (n.axisDrive a).reading = true) :
    completeRead a none n = raiseIf (decide (1 ≤ (n.axisDrive a).readFails)) .sensor (readFailed a n) := by
  have hcount : (min 2 ((n.axisDrive a).readFails + 1) == 2) = decide (1 ≤ (n.axisDrive a).readFails) := by
    rw [Bool.eq_iff_iff, beq_iff_eq, decide_eq_true_eq]
    omega
  rw [← hcount]
  cases a <;> exact if_pos hread

/-- A fault out of service, or latched already, changes nothing (R117). -/
theorem raiseIf_of_barred {k : FaultKind} {n : Node} (b : Bool) (h : n.inService = false ∨ n.faults.has k = true) :
    raiseIf b k n = n := by
  cases b with
  | false => rfl
  | true => exact if_pos h

theorem faultAbsent_sensor_iff (n : Node) :
    n.faultAbsent .sensor = true ↔ n.drive.ring.readFails = 0 ∧ n.drive.tilt.readFails = 0 := by
  simp [faultAbsent]

end Node

/-- Settles O22: both outcomes write the links and the failed count alone, which bring nothing with them. -/
theorem driveExchangeJudged : Obligations.DriveExchangeJudged := by
  intro reply s ⟨hlisten, hevent, hcalm⟩ hx
  refine ⟨?_, fun hbad => ?_⟩
  · rintro r rfl hgood
    exact takeStep_calm hlisten (Node.completeExchange_good hx ((s.node.replyGood_iff r).2 hgood))
      ((Node.nextConsequence_links s.node.counters rfl rfl).trans hcalm) hevent
  · exact takeStep_calm hlisten
      (Node.completeExchange_failed hx fun r hr hgood => hbad r hr ((s.node.replyGood_iff r).1 hgood))
      ((Node.nextConsequence_links s.node.counters rfl rfl).trans hcalm) hevent

/-- A failed read that raises nothing is kept and counted, and brings nothing with it (R145). -/
theorem exec_failedRead_of_quiet {a : Axis} {s : State} (hs : s.node.Steady)
    (hquiet : Node.completeRead a none s.node = Node.readFailed a s.node) :
    exec (.sensorReadComplete a none) s = .next { s with node := Node.readFailed a s.node } := by
  obtain ⟨hlisten, hevent, hcalm⟩ := hs
  exact takeStep_calm hlisten hquiet (Node.calm_readFailed a hcalm) ((Node.readFailed_statusEvent a s.node).trans hevent)

/-- Settles O23, by the outcome of the read: a good value, a first failure, a further one with SENSOR barred, and a further one
that takes the fault (`Node.raise_taken`). -/
theorem sensorReadJudged : Obligations.SensorReadJudged := by
  intro a s hs hread
  have ⟨hlisten, hevent, hcalm⟩ := hs
  have hnone := Node.completeRead_none hread
  refine ⟨fun v => ?_, fun hfirst => ?_, fun hbarred => ?_, fun hfails hserv hfault => ?_, s.node.faultAbsent_sensor_iff⟩
  · exact takeStep_calm hlisten (Node.completeRead_some hread v) (Node.calm_setAxisDrive _ hcalm rfl)
      ((Node.setAxisDrive_statusEvent _ _ _).trans hevent)
  · exact exec_failedRead_of_quiet hs (by simpa [hfirst, Node.raiseIf] using hnone)
  · exact exec_failedRead_of_quiet hs (hnone.trans (Node.raiseIf_of_barred _ (by simpa using hbarred)))
  · have hraise : Node.completeRead a none s.node = Node.raise .sensor (Node.readFailed a s.node) := by
      simpa [hfails, Node.raiseIf] using hnone
    have htaken : (Node.readFailed a s.node).FaultTaken .sensor
        (Node.finish false (Node.raise .sensor (Node.readFailed a s.node))) :=
      Node.raise_taken (by simpa using hserv) (by simpa using hfault)
    exact ⟨_, takeStep_listening hlisten, hraise ▸ htaken⟩

end Sys2Proof.Machine
end

section
/-! What a command does of its own, apart from what every step adds: one effect for each command. -/

namespace Sys2Proof

/-- The four commands whose step is not the plain one: the rise and the fall of RSTN act at once, a tick builds of its own,
and HALT delivers one HALT alone. -/
def Instr.IsOwnStep (c : Instr) : Prop :=
  (∃ straps pins, c = .powerOn straps pins) ∨ c = .rstnHeldLow ∨ (∃ order, c = .controlTick order) ∨ c = .halt

end Sys2Proof

namespace Sys2Proof.Machine

namespace Node

/-- The own effect of a command on the part: what its meaning does before the consequences and the build of its step. The
step of a mark, the completion of an exchange or a read, and the work on the head of the queue are the same effects at a
control tick (log entry 1). -/
def effectOf : Instr → Node → Node
  | .powerOn straps pins => fun _ => powerOn straps pins
  | .configReadStart => configReadStart
  | .configReadComplete bytes => configReadComplete bytes
  | .controlTick order => controlTick order
  | .driveExchangeComplete reply => completeExchange reply
  | .sensorReadComplete a v => completeRead a v
  | .statusPeriodExpiry => takeDue .statusPeriod
  | .peerEntryStale st => takeDue (.peerStale st)
  | .peerEntryLost st => takeDue (.peerLost st)
  | .armTimerExpiry => takeDue .arm
  | .permitTimerExpiry => takeDue .permit
  | .brakeTimerExpiry a => takeDue (.brake a)
  | .recheckTimerExpiry => takeDue .recheck
  | .pinchLimit a => takeDue (.pinch a)
  | .settleCountReached => takeDue .settle
  | .monitorConversion r => convert r
  | .monitorTrip c => takeDue (.trip c)
  | .monitorUntrip c => takeDue (.untrip c)
  | .inputLevelChange i l => changeLevel i l
  | .frameEnd bytes part => frameEnd bytes part
  | .frameComplete => frameComplete
  | .status => applyStatus
  | .cue => applyCue
  | .permit => applyPermit
  | .halt => deliverHalt
  | .clearLatchPart => applyClearLatch
  | .clearFaultPart => applyClearFault
  | .clearTowPart => applyClearTow
  | .cancel => applyCancel
  | .inquire => applyInquire
  | .reset straps => fun n => applyReset { n with cfg := { n.cfg with strapPins := straps } }
  | .arbiterStart quiet => arbiterStart quiet
  | .transmitSuccess => transmitSuccess
  | .collision cell => collision cell
  | .jamEnd => jamEnd
  | .backoffEnd k => backoffEnd k
  | .rstnHeldLow => holdReset
  | .burstStart => burstStart
  | .startByteFound => startByteFound
  | .liveCopyAlteration address value => alterLiveCopy address value

end Node

/-- Every other command is a plain step over its effect. -/
theorem exec_eq_takeStep {c : Instr} (hc : ¬Instr.IsOwnStep c) (s : State) :
    exec c s = takeStep (Node.effectOf c) s := by
  cases c with
  | powerOn straps pins => exact absurd (.inl ⟨_, _, rfl⟩) hc
  | rstnHeldLow => exact absurd (.inr (.inl rfl)) hc
  | controlTick order => exact absurd (.inr (.inr (.inl ⟨_, rfl⟩))) hc
  | halt => exact absurd (.inr (.inr (.inr rfl))) hc
  | _ => rfl

/-- What a command makes of a part with RSTN low, or of the part at the rise and the fall of RSTN, and of any other: the
command's effect on the part with its HALTs delivered, and the end of a step. -/
theorem exec_cases {c : Instr} {s t : State} (h : exec c s = .next t) :
    ((∃ straps pins, c = .powerOn straps pins) ∨ c = .rstnHeldLow) ∧ t.node = Node.effectOf c s.node
      ∨ s.node.rstnLow = true ∧ t.node = s.node
      ∨ s.node.rstnLow = false ∧ (∃ order, c = .controlTick order ∧ t.node = Node.controlTick order s.node.deliverHalts)
      ∨ s.node.rstnLow = false ∧ c = .halt ∧ t.node = Node.finish false s.node.deliverHalt
      ∨ s.node.rstnLow = false ∧ ¬Instr.IsOwnStep c
        ∧ t.node = Node.finish false (Node.effectOf c s.node.deliverHalts) := by
  by_cases hc : Instr.IsOwnStep c
  · rcases hc with ⟨straps, pins, rfl⟩ | rfl | ⟨order, rfl⟩ | rfl
    · cases h; exact .inl ⟨.inl ⟨_, _, rfl⟩, rfl⟩
    · cases h; exact .inl ⟨.inr rfl, rfl⟩
    · change Host.Outcome.next _ = _ at h
      cases h
      split
      next hlow => exact .inr (.inl ⟨hlow, rfl⟩)
      next hlow => exact .inr (.inr (.inl ⟨by simpa using hlow, _, rfl, rfl⟩))
    · change Host.Outcome.next _ = _ at h
      cases h
      split
      next hlow => exact .inr (.inl ⟨hlow, rfl⟩)
      next hlow => exact .inr (.inr (.inr (.inl ⟨by simpa using hlow, rfl, rfl⟩)))
  · rw [exec_eq_takeStep hc] at h
    unfold takeStep at h
    cases h
    split
    next hlow => exact .inr (.inl ⟨hlow, rfl⟩)
    next hlow => exact .inr (.inr (.inr (.inr ⟨by simpa using hlow, hc, rfl⟩)))

end Sys2Proof.Machine
end

section
/-! How a step ends, whatever its command: with nothing outstanding. -/

namespace Sys2Proof.Machine

open Node

/-- Out of service PERMIT alone is wanted, while the permit timer does not run (R112). -/
theorem Node.wantedHolds_outOfService {n : Node} (h : n.inService = false) :
    n.wantedHolds = HoldSet.when .permit n.cue.permit.isNone := by
  simp [wantedHolds, h]

/-- At power-on nothing follows of itself. -/
theorem Node.powerOn_calm (straps : BitVec 5) (pins : BitVec 8) : (powerOn straps pins).Calm := by
  have hphase : (powerOn straps pins).phaseConsequence false = none := rfl
  have hholds : (powerOn straps pins).wantedHolds = (powerOn straps pins).cue.holds :=
    (wantedHolds_outOfService rfl).trans (show HoldSet.when .permit true = 1 by decide)
  have hbrake (a : Axis) : (powerOn straps pins).brakeCommand a = false := by
    simp [brakeCommand, headMoves, headMove, headCue, powerOn, CueCtl.initial]
  simp only [Calm, nextConsequence, hbrake, hholds, hphase]
  rfl

/-- After every command but RSTN_HELD_LOW, to a part that takes events, nothing is outstanding. -/
theorem exec_done {c : Instr} {s t : State} (hlow : s.node.rstnLow = false) (hc : c ≠ .rstnHeldLow)
    (h : exec c s = .next t) : ∃ tick, t.node.nextConsequence tick = none := by
  rcases exec_cases h with ⟨⟨straps, pins, rfl⟩ | rfl, ht⟩ | ⟨hlow', -⟩ | ⟨-, order, -, ht⟩ | ⟨-, -, ht⟩ | ⟨-, -, ht⟩
  · exact ⟨false, ht ▸ powerOn_calm straps pins⟩
  · exact absurd rfl hc
  · exact absurd (hlow.symm.trans hlow') (by decide)
  · exact ⟨true, ht ▸ finish_done _ _⟩
  · exact ⟨false, ht ▸ finish_done _ _⟩
  · exact ⟨false, ht ▸ finish_done _ _⟩

/-- Where nothing is outstanding, no change of phase is. -/
theorem Node.phaseConsequence_of_done {tick : Bool} {n : Node} (h : n.nextConsequence tick = none) :
    n.phaseConsequence tick = none := by
  unfold nextConsequence at h
  split at h
  · cases h
  split at h
  · cases h
  split at h
  · cases h
  · exact h

theorem Node.allFresh_iff (n : Node) : n.allFresh = true ↔ ∀ e ∈ n.peers.entries, e.freshness = .fresh := by
  simp [allFresh]

theorem Node.headMoves_iff (n : Node) (a : Axis) : n.headMoves a = true ↔ ∃ m, n.headMove a = some m :=
  Option.isSome_iff_exists

/-- An axis that the head moves has arrived, between ticks and at them, when it is released, driven and at its target (R77). -/
theorem Node.axisArrived_of_atTarget {n : Node} {a : Axis} (tick : Bool)
    (h : ∀ m, n.headMove a = some m → n.release a = some .released ∧ (n.planner a).setpoint = (n.planner a).target
      ∧ (a = .ring → n.ringMode = .driven)) : n.axisArrived tick a = true := by
  unfold axisArrived headMoves
  cases hm : n.headMove a with
  | none => rfl
  | some m =>
    obtain ⟨hrel, hat, hring⟩ := h m hm
    have hdriven : (a == .ring && n.ringMode == .towed) = false := by
      cases a
      · simp [hring rfl]
      · rfl
    simp [hrel, hdriven, hat]

/-- Settles O3: a step ends with no change of phase outstanding (`exec_done`), phase by phase. -/
theorem nothingIsLeftOutstanding : Obligations.NothingIsLeftOutstanding := by
  intro c s t hlow hc h
  obtain ⟨tick, hdone⟩ := exec_done hlow hc h
  have hphase := phaseConsequence_of_done hdone
  unfold phaseConsequence at hphase
  refine ⟨?_, ?_, ?_, ?_, ?_, ?_, ?_⟩ <;> intro hp <;> simp only [hp] at hphase
  · by_contra hcon
    push Not at hcon
    obtain ⟨hq, hf, hfresh⟩ := hcon
    have hhead : t.node.headCue.isSome = true := by
      cases hq' : t.node.cue.queue with
      | nil => exact absurd hq' hq
      | cons => simp [headCue, hq']
    simp [hhead, hf, (allFresh_iff _).2 hfresh] at hphase
  · split at hphase
    · cases hphase
    · rename_i hrefused
      refine ⟨by simpa using hrefused, fun ⟨harmed, hpermit, hholds⟩ => ?_⟩
      simp [harmed, Option.isSome_iff_ne_none.2 hpermit, hholds] at hphase
  · split at hphase
    · cases hphase
    · rename_i hholds
      refine ⟨by simpa using hholds, ?_⟩
      by_contra hcon
      push Not at hcon
      have harrived (a : Axis) : t.node.axisArrived tick a = true :=
        axisArrived_of_atTarget tick (hcon a)
      simp [harrived] at hphase
  · rintro ⟨hholds, hpermit, hfresh⟩
    simp [hholds, (allFresh_iff _).2 hfresh, Option.isSome_iff_ne_none.2 hpermit] at hphase
  · by_contra hcon
    push Not at hcon
    have hrest (a : Axis) : (!t.node.headMoves a || (t.node.planner a).velocity == 0) = true := by
      unfold headMoves
      cases hm : t.node.headMove a with
      | none => rfl
      | some m => simpa using hcon a m hm
    have : t.node.headAtRest = true := by
      unfold headAtRest; rw [Bool.and_eq_true]; exact ⟨hrest .ring, hrest .tilt⟩
    simp [this] at hphase
  · simpa using hphase
  · intro hramp
    by_contra hcon
    push Not at hcon
    simp [hramp, Nat.le_zero.1 hcon.1, Nat.le_zero.1 hcon.2] at hphase

/-- Settles O1: the step is a match on the queue. -/
theorem stepTakesFrontCommand : Obligations.StepTakesFrontCommand :=
  ⟨fun _ _ _ h => by unfold step; rw [h], fun _ h => by unfold step; rw [h]⟩

/-- A step answers with the queue as it was. -/
theorem takeStep_answers (effect : Node → Node) (s : State) :
    ∃ n : Node, takeStep effect s = .next { s with node := n } := by
  unfold takeStep
  split
  · exact ⟨s.node, rfl⟩
  · exact ⟨_, rfl⟩

/-- Settles O2: a plain step answers with the queue as it was, and the other four commands write the part alone. -/
theorem everyCommandAnswers : Obligations.EveryCommandAnswers := by
  intro c s
  by_cases hc : Instr.IsOwnStep c
  · have answers (b : Bool) (n : Node) : ∃ m : Node, (if b then s else { s with node := n }) = { s with node := m } := by
      cases b
      · exact ⟨n, rfl⟩
      · exact ⟨s.node, rfl⟩
    rcases hc with ⟨straps, pins, rfl⟩ | rfl | ⟨order, rfl⟩ | rfl
    · exact ⟨_, rfl⟩
    · exact ⟨_, rfl⟩
    · obtain ⟨m, hm⟩ := answers s.node.rstnLow (Node.controlTick order s.node.deliverHalts)
      exact ⟨m, congrArg Host.Outcome.next hm⟩
    · obtain ⟨m, hm⟩ := answers s.node.rstnLow (Node.finish false s.node.deliverHalt)
      exact ⟨m, congrArg Host.Outcome.next hm⟩
  · rw [exec_eq_takeStep hc]
    exact takeStep_answers _ s

end Sys2Proof.Machine
end

section
/-! Reset and power (R171), and the commands whose event cannot occur as the part stands (log entry 10). -/

namespace Sys2Proof.Machine

open Node

/-- Settles O6: each conjunct reads a power-on value off the definitions of `Machine/State.lean`. -/
theorem powerOnSetsEveryBlock : Obligations.PowerOnSetsEveryBlock := by
  intro straps pins s
  refine ⟨Node.powerOn straps pins, rfl, rfl, rfl, rfl, rfl, rfl, rfl, ?_, rfl, rfl, rfl, rfl, rfl, ?_, ?_, rfl, rfl, rfl,
    rfl, rfl, rfl, rfl, rfl, rfl, rfl, rfl, rfl, ?_, rfl, rfl, rfl, ?_, rfl, rfl, rfl, ?_, rfl, rfl, rfl, rfl, rfl, ?_, rfl,
    rfl, rfl, rfl, rfl, rfl⟩
  · intro k; cases k <;> exact ⟨rfl, rfl⟩
  · intro c hc
    have hpage : (powerOn straps pins).counters.page = List.replicate 25 0 := rfl
    exact List.eq_of_mem_replicate (hpage ▸ hc)
  · intro e he
    have hone : e = Entry.blankOwn straps.toNat := List.mem_singleton.1 he
    subst hone
    exact ⟨rfl, rfl, rfl, rfl, rfl⟩
  · intro h; cases h <;> show HoldSet.has 1 _ = true ↔ _ <;> decide
  · intro a; cases a <;> exact ⟨rfl, rfl, rfl, rfl⟩
  · intro a; cases a <;> exact ⟨rfl, rfl, rfl, rfl⟩
  · intro c
    simp [liveRecord, powerOn, Monitor.initial, LiveRecord.initial, Vector.get_eq_getElem]

/-- Settles O7: the fall of RSTN writes the outputs and the links alone, and a step does nothing while it is low. -/
theorem rstnLowStopsEverything : Obligations.RstnLowStopsEverything := by
  refine ⟨fun s => ⟨_, rfl, rfl, rfl, ?_, ?_, rfl, rfl, rfl, rfl, rfl, rfl, rfl, rfl, rfl, rfl, rfl, rfl, rfl⟩, ?_⟩
  · have cut (x : Slot) : (if x.state = .sending then Slot.initial else x).state ≠ .sending := by
      split
      · exact nofun
      · assumption
    intro k; cases k <;> exact cut _
  · intro a; cases a <;> exact ⟨rfl, rfl⟩
  · intro c s hlow hc hpower
    obtain ⟨n, hn⟩ := everyCommandAnswers c s
    rcases exec_cases hn with ⟨⟨straps, pins, h⟩ | h, -⟩ | ⟨-, h⟩ | ⟨h, -⟩ | ⟨h, -⟩ | ⟨h, -⟩
    · exact absurd h (hpower straps pins)
    · exact absurd h hc
    · rw [hn, show n = s.node from h]
    all_goals exact absurd (hlow.symm.trans h) (by decide)

/-- Settles O5: at reset no cue, no fault and no axis is under way, and every count is 0. -/
theorem resetObeysLaws : Obligations.ResetObeysLaws := by
  have hmotion : State.reset.node.cue.phase.inMotion = false := rfl
  refine ⟨⟨by decide, by decide, by decide⟩, by show (0 : Nat) ≤ 8; decide, ⟨by decide, by decide⟩,
    ⟨by decide, by decide, by decide⟩, ?_, List.pairwise_singleton _ _, ?_, ?_, fun h => absurd rfl h, nofun, fun h => absurd h (by decide),
    ⟨?_, fun _ => rfl, ?_⟩, ?_, fun _ => rfl, fun h => absurd h (by decide)⟩
  · intro c
    have hc : State.reset.node.liveRecord c = .initial := by
      simp [liveRecord, State.reset, powerOn, Monitor.initial, Vector.get_eq_getElem]
    rw [hc]
    exact ⟨by decide, by decide, .inl rfl⟩
  · intro a h; cases a <;> exact absurd h (by decide)
  · exact ⟨by decide, by decide, by decide, ⟨fun h => absurd h (by decide), fun h => absurd rfl h.1.1⟩, by decide⟩
  · rintro (h | h) <;> exact absurd h (by decide)
  · intro a _; cases a <;> decide
  · exact fun _ => rfl

/-- A command of a steady part whose effect changes nothing changes nothing. -/
theorem takeStep_idle {effect : Node → Node} {s : State} (hs : s.node.Steady) (he : effect s.node = s.node) :
    takeStep effect s = .next s :=
  takeStep_calm hs.1 he hs.2.2 hs.2.1

/-- Without its mark the step of a count does nothing (log entry 1). -/
theorem Node.takeDue_of_not_mem {d : Due} {n : Node} (h : d ∉ n.due) : takeDue d n = n := by
  unfold takeDue
  rw [if_neg (by simpa using h)]

/-- The work on the head of the queue is done on a head of its kind that is not finished with, and on no other (R20). -/
theorem Node.withHead_of_not {kind : Nat} {work : List Byte → Node → Node} {n : Node}
    (h : ¬∃ f rest, n.rx.queue = f :: rest ∧ frameKind f = kind ∧ n.rx.head.fate = none) :
    withHead kind work n = n := by
  unfold withHead
  split
  · rfl
  next f rest hq => exact if_neg fun hf => h ⟨f, rest, hq, hf⟩

theorem Node.withHead_of_head {kind : Nat} {work : List Byte → Node → Node} {n : Node} {f : List Byte}
    {rest : List (List Byte)} (hq : n.rx.queue = f :: rest) (hk : frameKind f = kind) (hfate : n.rx.head.fate = none) :
    withHead kind work n = work f n := by
  simp [withHead, hq, hk, hfate]

/-- A slot is on the line exactly when its state says so (R11). -/
theorem Node.sendingSlot_eq_none {n : Node} : n.sendingSlot = none ↔ ∀ k, (n.slot k).state ≠ .sending := by
  unfold sendingSlot
  rw [List.find?_eq_none]
  constructor
  · intro h k; cases k <;> simpa using h _ (by decide)
  · intro h k _; simpa using h k

/-- The strap pins as last shown are read by RESET alone. -/
theorem Node.straps_calm {n : Node} (straps : BitVec 5) (h : n.Calm) :
    ({ n with cfg := { n.cfg with strapPins := straps } } : Node).Calm := h

/-- Settles O4: each effect is nothing where its event cannot occur, and a steady part then stays as it is. -/
theorem noEventNoChange : Obligations.NoEventNoChange := by
  intro s hs
  have due {d : Due} (h : d ∉ s.node.due) : takeStep (takeDue d) s = .next s := takeStep_idle hs (takeDue_of_not_mem h)
  have head {kind : Nat} {work : List Byte → Node → Node}
      (h : ¬∃ f rest, s.node.rx.queue = f :: rest ∧ frameKind f = kind ∧ s.node.rx.head.fate = none) :
      takeStep (withHead kind work) s = .next s := takeStep_idle hs (withHead_of_not h)
  refine ⟨due, fun st => due, fun st => due, due, due, fun a => due, due, fun a => due, due, fun c => due, fun c => due,
    ?exchange, ?read, ?convert, head, head, head, fun h => ⟨head h, head h, head h⟩, head, head, ?reset, ?halt, ?complete,
    ?sending, ?backoff, ?arbiter, ?readStart, ?readComplete, ?upset, ?burst, ?startByte, ?frameEnd⟩
  case exchange =>
    intro h reply
    exact takeStep_idle hs (by unfold completeExchange; rw [h]; rfl)
  case read =>
    intro a h v
    exact takeStep_idle hs (by unfold completeRead; dsimp only; rw [h]; rfl)
  case convert =>
    rintro h r
    refine takeStep_idle hs ?_
    unfold convert
    split
    next c tilt hc ht => rcases h with h | h <;> simp_all
    next => rfl
  case reset =>
    intro h straps
    let n : Node := { s.node with cfg := { s.node.cfg with strapPins := straps } }
    have hnone : applyReset n = n := withHead_of_not h
    exact takeStep_calm (effect := effectOf (.reset straps)) hs.1 hnone (straps_calm straps hs.2.2) hs.2.1
  case halt =>
    have hnone : deliverHalt s.node = s.node := by unfold deliverHalt; rw [hs.1.2]
    show Host.Outcome.next _ = _
    rw [hs.1.1, hnone, finish_of_none hs.2.2 hs.2.1]
    rfl
  case complete =>
    intro h
    exact takeStep_idle hs (by unfold frameComplete headFate; rw [h])
  case sending =>
    intro h
    have hnone := sendingSlot_eq_none.2 h
    exact ⟨takeStep_idle hs (by unfold transmitSuccess; rw [hnone]), takeStep_idle hs (by unfold jamEnd; rw [hnone]),
      fun cell => takeStep_idle hs (by unfold collision; rw [hnone])⟩
  case backoff =>
    intro k h
    refine takeStep_idle hs ?_
    unfold backoffEnd
    split
    next t ht => exact absurd ht (h t)
    next => rfl
  case arbiter =>
    intro k h quiet
    have hsome : s.node.sendingSlot.isSome = true := by
      rw [Option.isSome_iff_ne_none]
      exact fun hnone => sendingSlot_eq_none.1 hnone k h
    exact takeStep_idle hs (by unfold arbiterStart; rw [hsome]; rfl)
  case readStart =>
    intro h
    exact takeStep_idle hs (if_neg fun hc => h.elim (· hc.1) (· hc.2))
  case readComplete =>
    intro h bytes
    exact takeStep_idle hs (if_neg fun hc => h.elim (· hc.1) (· hc.2))
  case upset =>
    intro address value h
    refine takeStep_idle hs (if_neg ?_)
    rintro ⟨hserv, hlow, hhigh⟩
    rcases h with h | h | h
    · simp [h] at hserv
    · omega
    · omega
  case burst =>
    intro h
    exact ⟨takeStep_idle hs (if_neg h), fun quiet => takeStep_idle hs (by simp [arbiterStart, h])⟩
  case startByte => exact fun h => takeStep_idle hs (if_neg h)
  case frameEnd =>
    intro h bytes part
    exact takeStep_idle hs (by unfold frameEnd; rw [h])

end Sys2Proof.Machine
end

section
/-! The induction over a step for a property that some commands may break: what the consequences, the build and the effects of
the commands allowed keep, every allowed command keeps (`StepClosed` is the case of all of them). -/

namespace Sys2Proof

/-- The command that takes the step of a mark (log entry 1). -/
def Due.command : Due → Instr
  | .statusPeriod => .statusPeriodExpiry
  | .peerStale st => .peerEntryStale st
  | .peerLost st => .peerEntryLost st
  | .arm => .armTimerExpiry
  | .permit => .permitTimerExpiry
  | .brake a => .brakeTimerExpiry a
  | .recheck => .recheckTimerExpiry
  | .pinch a => .pinchLimit a
  | .settle => .settleCountReached
  | .trip c => .monitorTrip c
  | .untrip c => .monitorUntrip c

/-- The commands whose effect a control tick takes where it is due: the steps of the marks, the completions, the conversion
and the work on the frame at the head (log entries 1 and 2). -/
def Instr.InTick : Instr → Bool
  | .statusPeriodExpiry | .peerEntryStale _ | .peerEntryLost _ | .armTimerExpiry | .permitTimerExpiry
  | .brakeTimerExpiry _ | .recheckTimerExpiry | .pinchLimit _ | .settleCountReached | .monitorTrip _ | .monitorUntrip _
  | .monitorConversion _ | .driveExchangeComplete _ | .sensorReadComplete _ _
  | .frameComplete | .status | .cue | .permit | .clearLatchPart | .clearFaultPart | .clearTowPart | .cancel | .inquire
  | .reset _ => true
  | _ => false

/-- The commands whose effect a tick takes within its blocks: the steps of the marks, and the conversion. -/
def Instr.InBlock (c : Instr) : Prop := (∃ d : Due, c = d.command) ∨ ∃ r, c = .monitorConversion r

theorem Instr.InBlock.inTick {c : Instr} (h : c.InBlock) : c.InTick = true := by
  rcases h with ⟨d, rfl⟩ | ⟨r, rfl⟩
  · cases d <;> rfl
  · rfl

/-- The blocks that act at a tick of themselves: `expiry` and `conversion` are commands taken within it. -/
def TickBlock.IsBlock : TickBlock → Bool
  | .expiry _ => false
  | .conversion _ => false
  | _ => true

end Sys2Proof

namespace Sys2Proof.Machine

theorem Node.effectOf_command (d : Due) (n : Node) : effectOf d.command n = takeDue d n := by cases d <;> rfl

namespace Node

/-- The consequences, the build, the marks, the effects of the commands in `A` and the acts of the blocks in `B` keep `P`. -/
structure KeptBy (P : Node → Prop) (A : Instr → Prop) (B : TickBlock → Prop) : Prop where
  consequence : ∀ tick c n, n.nextConsequence tick = some c → P n → P (applyConsequence c n)
  build : ∀ n, P n → P (build n)
  mark : ∀ n b, P n → P { n with statusEvent := b }
  pend : ∀ n b, P n → P { n with peers := { n.peers with pendingBuild := b } }
  allow : ∀ n, P n → P (allow n)
  effect : ∀ c n, A c → P n → P (effectOf c n)
  block : ∀ b n, B b → b.IsBlock = true → P n → P (runBlock b n)

namespace KeptBy

variable {P : Node → Prop} {A : Instr → Prop} {B : TickBlock → Prop} (hP : KeptBy P A B)
include hP

theorem settled (tick : Bool) (n : Node) (h : P n) : P (Node.settled tick n) :=
  settled_induct_of (hP.consequence tick) n h

theorem finish (tick : Bool) (n : Node) (h : P n) : P (Node.finish tick n) :=
  finish_induct_of (hP.consequence tick) hP.build hP.mark hP.pend n h

/-- A whole step of an allowed command keeps `P`. -/
theorem step {c : Instr} (hc : A c) (n : Node) (h : P n) : P (Node.finish false (effectOf c n)) :=
  hP.finish false _ (hP.effect c n hc h)

theorem deliverHalts (hhalt : A .halt) (n : Node) (h : P n) : P (Node.deliverHalts n) :=
  foldl_keeps _ (fun m _ hm => hP.step hhalt m hm) _ n h

theorem forceDue (hA : ∀ d : Due, A d.command) (n : Node) (h : P n) : P (Node.forceDue n) :=
  foldl_keeps _ (fun m d hm => by
    have := hP.step (hA d) m hm
    rwa [effectOf_command] at this) _ n h

theorem forceLinks (hx : A (.driveExchangeComplete none)) (hr : ∀ a, A (.sensorReadComplete a none)) (n : Node) (h : P n) : P (Node.forceLinks n) :=
  forceLinks_keeps (fun m hm => hP.effect (.driveExchangeComplete none) m hx hm)
    (fun a m hm => hP.step (c := .sensorReadComplete a none) (hr a) m hm) n h

theorem forceHead (hA : ∀ c, c.InTick = true → A c) (n : Node) (h : P n) : P (Node.forceHead n) := by
  have step {c : Instr} (hc : c.InTick = true) {m : Node} (hm : P m) : P (Node.finish false (effectOf c m)) :=
    hP.step (hA c hc) m hm
  unfold Node.forceHead
  split
  · exact h
  split
  · exact hP.effect .frameComplete n (hA _ rfl) h
  split
  · exact step (c := .status) rfl h
  · exact step (c := .cue) rfl h
  · exact step (c := .permit) rfl h
  · exact step (c := .clearTowPart) rfl (step (c := .clearFaultPart) rfl (step (c := .clearLatchPart) rfl h))
  · exact step (c := .cancel) rfl h
  · exact step (c := .inquire) rfl h
  · exact step (c := .reset n.cfg.strapPins) rfl h
  · exact h

theorem beforeTick (hA : ∀ c, c.InTick = true → A c) (n : Node) (h : P n) : P (Node.beforeTick n) :=
  hP.forceHead hA _ (hP.forceLinks (hA _ rfl) (fun _ => hA _ rfl) _
    (hP.forceDue (fun d => hA _ (Instr.InBlock.inTick (.inl ⟨d, rfl⟩))) n h))

theorem runBlock (hA : ∀ c, c.InBlock → A c) {b : TickBlock} (hb : B b) (n : Node) (h : P n) :
    P (Node.runBlock b n) := by
  cases b with
  | expiry d =>
    have := hP.step (hA _ (.inl ⟨d, rfl⟩)) n h
    rwa [effectOf_command] at this
  | conversion r => exact hP.step (c := .monitorConversion r) (hA _ (.inr ⟨r, rfl⟩)) n h
  | _ => exact hP.block _ n hb rfl h

theorem runBlocks (hA : ∀ c, c.InBlock → A c) :
    ∀ (l : List TickBlock), (∀ b ∈ l, B b) → ∀ n : Node, P n → P (Node.runBlocks l n)
  | [], _, _, h => h
  | b :: l, hB, n, h => by
    have ⟨hb, hl⟩ := List.forall_mem_cons.1 hB
    exact runBlocks hA l hl _ (hP.settled true _ (hP.runBlock hA hb n h))

theorem controlTick (hA : ∀ c, c.InTick = true → A c) (hB : ∀ b, B b) (order : List TickBlock) (n : Node) (h : P n) :
    P (Node.controlTick order n) :=
  hP.finish true _ (hP.runBlocks (fun _ hc => hA _ hc.inTick) _ (fun b _ => hB b) _ (hP.allow _ (hP.beforeTick hA n h)))

/-- What everything an allowed command is made of keeps, the command keeps. A tick may be allowed only with all it takes. -/
theorem exec {c : Instr} {s t : State} (hhalt : A .halt) (hc : (∀ order, c ≠ .controlTick order) → A c)
    (htick : (∃ order, c = .controlTick order) → (∀ c, c.InTick = true → A c) ∧ ∀ b, B b)
    (ht : Machine.exec c s = .next t) (h : P s.node) : P t.node := by
  rcases exec_cases ht with ⟨hpower, ht'⟩ | ⟨-, ht'⟩ | ⟨-, order, rfl, ht'⟩ | ⟨-, rfl, ht'⟩ | ⟨-, hplain, ht'⟩ <;> rw [ht']
  · refine hP.effect c _ (hc ?_) h
    rcases hpower with ⟨_, _, rfl⟩ | rfl <;> exact fun _ => nofun
  · exact h
  · obtain ⟨hA, hB⟩ := htick ⟨order, rfl⟩
    exact hP.controlTick hA hB order _ (hP.deliverHalts hhalt _ h)
  · exact hP.step hhalt _ h
  · refine hP.step (hc ?_) _ (hP.deliverHalts hhalt _ h)
    rintro order rfl
    exact hplain (.inr (.inr (.inl ⟨order, rfl⟩)))

end KeptBy

end Node

end Sys2Proof.Machine
end

section
/-! What each act leaves of the course of a move: the phase, the queue, the faults, the ring mode, the planners and the live
copy. Most acts keep it, or only raise faults; the few that change it are named by `CourseClosed`. -/

namespace Sys2Proof.Machine

/-- A planner but for its pinch count, which no law reads. -/
def Planner.course (p : Planner) : Planner := { p with pinch := 0 }

namespace Node

/-- From `n` to `m` the course of the part stands. Of the Peer Table it says that no entry becomes ABSENT, and of the receive
queue that none is filled in STARTING. -/
structure KeepsCourse (n m : Node) : Prop where
  phase : m.cue.phase = n.cue.phase
  queue : m.cue.queue = n.cue.queue
  retired : m.cue.retired = n.cue.retired
  faults : m.faults = n.faults
  ringMode : m.ringMode = n.ringMode
  ring : m.ring.course = n.ring.course
  tilt : m.tilt.course = n.tilt.course
  live : m.cfg.live = n.cfg.live
  heard : (∀ e ∈ n.peers.entries, e.freshness ≠ .absent) → ∀ e ∈ m.peers.entries, e.freshness ≠ .absent
  waits : n.cue.phase = .starting → n.rx.queue = [] → m.rx.queue = []

namespace KeepsCourse

theorem refl (n : Node) : KeepsCourse n n := ⟨rfl, rfl, rfl, rfl, rfl, rfl, rfl, rfl, id, fun _ => id⟩

theorem trans {n o m : Node} (h : KeepsCourse n o) (g : KeepsCourse o m) : KeepsCourse n m :=
  ⟨g.1.trans h.1, g.2.trans h.2, g.3.trans h.3, g.4.trans h.4, g.5.trans h.5, g.6.trans h.6, g.7.trans h.7, g.8.trans h.8,
   fun x => g.heard (h.heard x), fun x y => g.waits (h.phase.trans x) (h.waits x y)⟩

/-- An act that writes none of the blocks the course lies in keeps it. -/
theorem of_fields {n m : Node} (cue : m.cue = n.cue := by simp) (faults : m.faults = n.faults := by simp)
    (mode : m.ringMode = n.ringMode := by simp) (ring : m.ring = n.ring := by simp) (tilt : m.tilt = n.tilt := by simp)
    (cfg : m.cfg.live = n.cfg.live := by simp) (peers : m.peers.entries = n.peers.entries := by simp)
    (rx : m.rx.queue = n.rx.queue := by simp) : KeepsCourse n m := by
  refine ⟨by rw [cue], by rw [cue], by rw [cue], faults, mode, by rw [ring], by rw [tilt], cfg, ?_, ?_⟩
  · rw [peers]; exact id
  · rw [rx]; exact fun _ => id

/-- A change of the Peer Table's entries alone that makes none ABSENT keeps the course. -/
theorem of_entries {n m : Node} (cue : m.cue = n.cue := by simp) (faults : m.faults = n.faults := by simp)
    (mode : m.ringMode = n.ringMode := by simp) (ring : m.ring = n.ring := by simp) (tilt : m.tilt = n.tilt := by simp)
    (cfg : m.cfg.live = n.cfg.live := by simp) (rx : m.rx.queue = n.rx.queue := by simp)
    (heard : (∀ e ∈ n.peers.entries, e.freshness ≠ .absent) → ∀ e ∈ m.peers.entries, e.freshness ≠ .absent) :
    KeepsCourse n m := by
  refine ⟨by rw [cue], by rw [cue], by rw [cue], faults, mode, by rw [ring], by rw [tilt], cfg, heard, ?_⟩
  rw [rx]; exact fun _ => id

end KeepsCourse

/-- From `n` to `m` the course changes by faults raised alone. -/
inductive OnlyRaises : Node → Node → Prop
  | keeps {n m : Node} : KeepsCourse n m → OnlyRaises n m
  | raise (k : FaultKind) (n : Node) : OnlyRaises n (raise k n)
  | trans {n o m : Node} : OnlyRaises n o → OnlyRaises o m → OnlyRaises n m

theorem OnlyRaises.induct {P : Node → Prop} (hk : ∀ {n m}, KeepsCourse n m → P n → P m)
    (hr : ∀ k n, P n → P (Node.raise k n)) {n m : Node} (h : OnlyRaises n m) (hn : P n) : P m := by
  induction h with
  | keeps h => exact hk h hn
  | raise k n => exact hr k n hn
  | trans _ _ ih1 ih2 => exact ih2 (ih1 hn)

theorem OnlyRaises.refl (n : Node) : OnlyRaises n n := .keeps (.refl n)

theorem onlyRaises_raiseIf (b : Bool) (k : FaultKind) (n : Node) : OnlyRaises n (raiseIf b k n) := by
  unfold raiseIf
  split
  · exact .raise k n
  · exact .refl n

theorem onlyRaises_superviseTow (n : Node) : OnlyRaises n (superviseTow n) := onlyRaises_raiseIf _ _ _

/-! ### The smaller operations -/

theorem keepsCourse_note (n : Node) : KeepsCourse n (note n) := .of_fields

theorem keepsCourse_dropDue (d : Due) (n : Node) : KeepsCourse n (dropDue d n) := .of_fields

theorem keepsCourse_setAxisDrive (a : Axis) (d : AxisDrive) (n : Node) : KeepsCourse n (n.setAxisDrive a d) := .of_fields

theorem keepsCourse_setHolds (h : HoldSet) (n : Node) : KeepsCourse n (setHolds h n) := by
  obtain ⟨b, e⟩ := setHolds_eq h n
  rw [e]
  exact ⟨rfl, rfl, rfl, rfl, rfl, rfl, rfl, rfl, id, fun _ => id⟩

theorem keepsCourse_changeBrake (a : Axis) (n : Node) : KeepsCourse n (changeBrake a n) := by
  obtain ⟨r, t, e, -, -⟩ := changeBrake_cue a n
  refine ⟨by simp, by simp, by rw [e], by simp, by simp, by simp, by simp, by simp, by simp, by simp⟩

theorem keepsCourse_setRefusal (id : CueId) (r : CueReason) (n : Node) : KeepsCourse n (setRefusal id r n) := by
  refine ⟨by simp, by simp, ?_, by simp, by simp, by simp, by simp, by simp, by simp, by simp⟩
  unfold setRefusal
  split
  · rfl
  · simp

theorem keepsCourse_requestHalt (k : FaultKind) (n : Node) : KeepsCourse n (requestHalt k n) := by
  refine ⟨by simp, by simp, ?_, by simp, by simp, by simp, by simp, by simp, by simp, by simp⟩
  unfold requestHalt
  split <;> rfl

theorem keepsCourse_writeHaltRecord (o : Nat) (r : HaltReason) (n : Node) : KeepsCourse n (writeHaltRecord o r n) :=
  ⟨rfl, rfl, rfl, rfl, rfl, rfl, rfl, rfl, id, fun _ => id⟩

theorem keepsCourse_setFate (x : FrameFate) (n : Node) : KeepsCourse n (setFate x n) :=
  ⟨rfl, rfl, rfl, rfl, rfl, rfl, rfl, rfl, id, fun _ => id⟩

theorem keepsCourse_closeClear (f : List Byte) (n : Node) : KeepsCourse n (closeClear f n) := by
  unfold closeClear
  dsimp only
  split
  · exact keepsCourse_setFate _ _
  · exact .refl n

/-- An entry written that is not ABSENT leaves none ABSENT that was not. -/
theorem keepsCourse_putEntry (s : Nat) {e : Entry} (he : e.freshness ≠ .absent) (n : Node) :
    KeepsCourse n (putEntry s e n) := by
  refine .of_entries (heard := fun h x hx => ?_)
  obtain ⟨y, hy, rfl⟩ := List.mem_map.1 hx
  split
  · exact he
  · exact h y hy

theorem keepsCourse_fillStatus (f : List Byte) (n : Node) : KeepsCourse n (fillStatus f n) := .of_fields

/-- The part as a build leaves it, before a changed own ring mode is judged (R51). -/
def built (n : Node) : Node :=
  dropDue .statusPeriod { fillStatus n.statusFrame n with
    peers := { n.peers with
      entries := n.peers.entries.map (fun x => if x.station == n.station then
        { station := n.station, freshness := .fresh, age := 0, lastSeq := n.peers.ownSeq + 1, content := n.ownContent }
        else x)
      ownSeq := n.peers.ownSeq + 1, allowance := false, pendingBuild := false, timer := some n.statusPeriod } }

/-- The STATUS slot is filled whatever the Peer Table holds. -/
theorem fillStatus_with_peers (f : List Byte) (p : PeerTable) (n : Node) :
    fillStatus f { n with peers := p } = { fillStatus f n with peers := p } := by
  unfold fillStatus
  dsimp only
  split <;> rfl

theorem build_eq (n : Node) : build n = if n.built.towedSet = n.towedSet then n.built else superviseTow n.built := by
  have hput (e : Entry) : putEntry n.station e n =
      { n with peers := { n.peers with entries := n.peers.entries.map (fun x => if x.station == n.station then e else x) } } :=
    rfl
  have hperiod (m : Node) (hc : m.cue = n.cue) (hl : m.cfg = n.cfg) : m.statusPeriod = n.statusPeriod := by
    simp only [statusPeriod, inService, live, hc, hl]
    rfl
  unfold build
  dsimp only
  rw [hput, fillStatus_with_peers, hperiod _ (by simp) (by simp)]
  rfl

theorem onlyRaises_build (n : Node) : OnlyRaises n (build n) := by
  have h : KeepsCourse n n.built := by
    refine .of_entries (by simp [built]) (by simp [built]) (by simp [built]) (by simp [built]) (by simp [built])
      (by simp [built]) (by simp [built]) fun h x hx => ?_
    obtain ⟨y, hy, rfl⟩ := List.mem_map.1 hx
    split
    · exact nofun
    · exact h y hy
  rw [build_eq]
  split
  · exact .keeps h
  · exact .trans (.keeps h) (onlyRaises_superviseTow _)

/-! ### The steps of the marks -/

theorem onlyRaises_entryStale (s : Nat) (n : Node) : OnlyRaises n (entryStale s n) := by
  unfold entryStale
  split
  · split
    · exact .keeps (keepsCourse_putEntry s (by simp) n)
    · exact .refl n
  · exact .refl n

theorem onlyRaises_entryLost (s : Nat) (n : Node) : OnlyRaises n (entryLost s n) := by
  unfold entryLost
  split
  · split
    · exact .trans (.keeps (keepsCourse_putEntry s (by simp) n)) (onlyRaises_raiseIf _ _ _)
    · exact .refl n
  · exact .refl n

theorem keepsCourse_expirePermit (n : Node) : KeepsCourse n (expirePermit n) :=
  ⟨rfl, rfl, rfl, rfl, rfl, rfl, rfl, rfl, id, fun _ => id⟩

theorem onlyRaises_expireBrake (a : Axis) (n : Node) : OnlyRaises n (expireBrake a n) := by
  unfold expireBrake
  split
  · exact .trans (.keeps (keepsCourse_setAxisDrive _ _ _)) (.raise _ _)
  · exact .refl n

theorem onlyRaises_recheck (n : Node) : OnlyRaises n (recheck n) := by
  unfold recheck
  refine .trans ?_ (onlyRaises_raiseIf _ _ _)
  exact .keeps ⟨rfl, rfl, rfl, rfl, rfl, rfl, rfl, rfl, id, fun _ => id⟩

/-- The pinch count is no part of the course. -/
theorem keepsCourse_setPlanner {a : Axis} {p : Planner} {n : Node} (h : p.course = (n.planner a).course) :
    KeepsCourse n (n.setPlanner a p) := by
  cases a
  · exact ⟨rfl, rfl, rfl, rfl, rfl, h, rfl, rfl, id, fun _ => id⟩
  · exact ⟨rfl, rfl, rfl, rfl, rfl, rfl, h, rfl, id, fun _ => id⟩

theorem onlyRaises_reachPinch (a : Axis) (n : Node) : OnlyRaises n (reachPinch a n) := by
  unfold reachPinch
  refine .trans ?_ (.raise _ _)
  exact .keeps (keepsCourse_setPlanner rfl)

theorem keepsCourse_setLiveRecord (c : Fin 8) (r : LiveRecord) (n : Node) : KeepsCourse n (setLiveRecord c r n) :=
  ⟨rfl, rfl, rfl, rfl, rfl, rfl, rfl, rfl, id, fun _ => id⟩

theorem keepsCourse_refreshAttention (n : Node) : KeepsCourse n (refreshAttention n) :=
  ⟨rfl, rfl, rfl, rfl, rfl, rfl, rfl, rfl, id, fun _ => id⟩

theorem onlyRaises_trip (c : Fin 8) (n : Node) : OnlyRaises n (trip c n) := by
  unfold trip
  refine .trans (.keeps (.trans (keepsCourse_setLiveRecord c { n.liveRecord c with tripped := true } n) ?_))
    (onlyRaises_raiseIf _ _ _)
  dsimp only
  split
  · exact keepsCourse_refreshAttention _
  · exact .refl _

theorem keepsCourse_untrip (c : Fin 8) (n : Node) : KeepsCourse n (untrip c n) := by
  unfold untrip
  refine .trans (keepsCourse_setLiveRecord c { n.liveRecord c with tripped := false } n) ?_
  dsimp only
  split
  · exact keepsCourse_refreshAttention _
  · exact .refl _

/-! ### The blocks of the tick -/

theorem keepsCourse_addDue (d : Due) (n : Node) : KeepsCourse n (addDue d n) :=
  ⟨rfl, rfl, rfl, rfl, rfl, rfl, rfl, rfl, id, fun _ => id⟩

/-- An entry ages without becoming ABSENT (R45). -/
theorem ageEntry_heard {n : Node} {e : Entry} (h : e.freshness ≠ .absent) : (n.ageEntry e).1.freshness ≠ .absent := by
  unfold ageEntry
  dsimp only
  (repeat' split) <;> first | exact h | (unfold freshnessAt; dsimp only; (repeat' split) <;> exact nofun)

theorem keepsCourse_agePeers (n : Node) : KeepsCourse n (agePeers n) := by
  unfold agePeers
  split
  · refine .of_entries (heard := fun h x hx => ?_)
    obtain ⟨y, hy, rfl⟩ := List.mem_map.1 hx
    exact ageEntry_heard (h y hy)
  · exact .refl n

theorem keepsCourse_lowerStatusTimer (n : Node) : KeepsCourse n (lowerStatusTimer n) := by
  unfold lowerStatusTimer
  split
  · exact .refl n
  · split
    · exact keepsCourse_addDue _ _
    · exact .of_fields

theorem keepsCourse_lowerPermitTimer (n : Node) : KeepsCourse n (lowerPermitTimer n) := by
  unfold lowerPermitTimer
  split
  · exact .refl n
  · split
    · exact keepsCourse_addDue _ _
    · exact ⟨rfl, rfl, rfl, rfl, rfl, rfl, rfl, rfl, id, fun _ => id⟩

theorem keepsCourse_lowerArmTimer (n : Node) : KeepsCourse n (lowerArmTimer n) := by
  unfold lowerArmTimer
  split
  · split
    · exact keepsCourse_addDue _ _
    · exact ⟨rfl, rfl, rfl, rfl, rfl, rfl, rfl, rfl, id, fun _ => id⟩
  · exact .refl n

theorem keepsCourse_lowerRecheckTimer (n : Node) : KeepsCourse n (lowerRecheckTimer n) := by
  unfold lowerRecheckTimer
  split
  · exact .refl n
  · split
    · exact keepsCourse_addDue _ _
    · exact .of_fields

theorem keepsCourse_countSettle (n : Node) : KeepsCourse n (countSettle n) := by
  unfold countSettle
  split
  · split
    · split
      · exact keepsCourse_addDue _ _
      · exact ⟨rfl, rfl, rfl, rfl, rfl, rfl, rfl, rfl, id, fun _ => id⟩
    · exact ⟨rfl, rfl, rfl, rfl, rfl, rfl, rfl, rfl, id, fun _ => id⟩
  · exact .refl n

theorem onlyRaises_superviseBrake (a : Axis) (n : Node) : OnlyRaises n (superviseBrake a n) := by
  unfold superviseBrake
  dsimp only
  split
  · exact .refl n
  · exact onlyRaises_raiseIf _ _ _
  · split
    · exact onlyRaises_raiseIf _ _ _
    · split
      · exact .keeps (keepsCourse_addDue _ _)
      · exact .keeps (keepsCourse_setAxisDrive _ _ _)

/-- Every block but the planners and Tow Logic at most raises faults. -/
theorem onlyRaises_runBlock {b : TickBlock} (hb : b.IsBlock = true) (hplan : b ≠ .planners) (htow : b ≠ .towLogic)
    (n : Node) : OnlyRaises n (runBlock b n) := by
  cases b with
  | planners => exact absurd rfl hplan
  | towLogic => exact absurd rfl htow
  | expiry d => cases hb
  | conversion r => cases hb
  | clashAge => exact .keeps (.of_fields rfl rfl rfl rfl rfl rfl rfl rfl)
  | peerAging => exact .keeps (keepsCourse_agePeers n)
  | statusTimer => exact .keeps (keepsCourse_lowerStatusTimer n)
  | permitTimer => exact .keeps (keepsCourse_lowerPermitTimer n)
  | armTimer => exact .keeps (keepsCourse_lowerArmTimer n)
  | settleCount => exact .keeps (keepsCourse_countSettle n)
  | skewCheck => exact onlyRaises_raiseIf _ _ _
  | brakeTimers => exact .trans (onlyRaises_superviseBrake .ring n) (onlyRaises_superviseBrake .tilt _)
  | tiltDriveCheck => exact onlyRaises_raiseIf _ _ _
  | limitCheck => exact onlyRaises_raiseIf _ _ _
  | recheckTimer => exact .keeps (keepsCourse_lowerRecheckTimer n)
  | monitorTurn => exact .keeps (.of_fields rfl rfl rfl rfl rfl rfl rfl rfl)
  | followCheck => exact onlyRaises_raiseIf _ _ _
  | exchange => exact .keeps (.of_fields rfl rfl rfl rfl rfl rfl rfl rfl)

/-! ### The commands -/

theorem keepsCourse_holdReset (n : Node) : KeepsCourse n (holdReset n) :=
  ⟨rfl, rfl, rfl, rfl, rfl, rfl, rfl, rfl, id, fun _ => id⟩

theorem keepsCourse_configReadStart (n : Node) : KeepsCourse n (configReadStart n) := by
  unfold configReadStart
  split
  · exact .of_fields
  · exact .refl n

theorem keepsCourse_completeExchange (reply : Option DriveReply) (n : Node) : KeepsCourse n (completeExchange reply n) := by
  unfold completeExchange
  dsimp only
  (repeat' split) <;> first | exact .refl n | exact .of_fields

theorem onlyRaises_completeRead (a : Axis) (v : Option Int) (n : Node) : OnlyRaises n (completeRead a v n) := by
  unfold completeRead
  dsimp only
  split
  · split
    · exact .keeps (keepsCourse_setAxisDrive _ _ _)
    · exact .trans (.keeps .of_fields) (onlyRaises_raiseIf _ _ _)
  · exact .refl n

theorem keepsCourse_convert (r : BitVec 10) (n : Node) : KeepsCourse n (convert r n) := by
  unfold convert
  split
  · split
    · exact ⟨rfl, rfl, rfl, rfl, rfl, rfl, rfl, rfl, id, fun _ => id⟩
    · exact .refl n
  · exact .refl n

theorem onlyRaises_feedbackChanged (a : Axis) (n : Node) : OnlyRaises n (feedbackChanged a n) := by
  unfold feedbackChanged
  split
  · exact .refl n
  · split
    · have h : KeepsCourse n (brakeAgreed a n) := by
        refine ⟨by simp, by simp, ?_, by simp, by simp, by simp, by simp, by simp, by simp, by simp⟩
        unfold brakeAgreed
        dsimp only
        split
        · obtain ⟨r, t, e, -, -⟩ := reportReleased_cue a (n.setAxisDrive a { n.axisDrive a with supervision := .agreed })
          rw [e]; simp
        · simp
      exact .keeps h
    · exact .refl n
  · split
    · exact .refl n
    · exact .raise _ _

theorem onlyRaises_reportInput (i : Fin 8) (n : Node) : OnlyRaises n (reportInput i n) := by
  unfold reportInput
  split
  · exact onlyRaises_raiseIf _ _ _
  · exact onlyRaises_raiseIf _ _ _
  · exact onlyRaises_raiseIf _ _ _
  · exact onlyRaises_feedbackChanged _ _
  · exact onlyRaises_feedbackChanged _ _
  · exact .refl n

theorem onlyRaises_changeLevel (i : Fin 8) (l : Bool) (n : Node) : OnlyRaises n (changeLevel i l n) := by
  unfold changeLevel
  split
  · exact .refl n
  · refine .trans ?_ (onlyRaises_reportInput _ _)
    exact .keeps ⟨rfl, rfl, rfl, rfl, rfl, rfl, rfl, rfl, id, fun _ => id⟩

/-- A judged frame is counted, queued outside STARTING, bypassed, or an address clash (R16 to R21). -/
theorem onlyRaises_judge (own : Bool) (n : Node) : OnlyRaises n (judge own n) := by
  have counted (c : Counters) : OnlyRaises n { n with counters := c } := .keeps .of_fields
  unfold judge
  dsimp only
  split
  · split
    · exact .refl n
    · exact counted _
  split
  · split
    · exact .refl n
    · exact counted _
  split
  · exact .refl n
  split
  · exact .trans (.raise .address n) (.keeps (.of_fields rfl rfl rfl rfl rfl rfl rfl rfl))
  split
  · exact counted _
  next hphase =>
    split
    · exact counted _
    · exact counted _
    · split
      · exact .keeps ⟨rfl, rfl, rfl, rfl, rfl, rfl, rfl, rfl, id, fun _ => id⟩
      · unfold enqueue
        split
        · exact .keeps ⟨rfl, rfl, rfl, rfl, rfl, rfl, rfl, rfl, id, fun h => absurd h hphase⟩
        · exact counted _

theorem onlyRaises_frameEnd (bytes : List Byte) (part : Bool) (n : Node) : OnlyRaises n (frameEnd bytes part n) := by
  unfold frameEnd
  split
  · exact .refl n
  · exact .keeps .of_fields
  · exact .trans (.keeps .of_fields) (onlyRaises_judge _ _)

theorem keepsCourse_frameComplete (n : Node) : KeepsCourse n (frameComplete n) := by
  unfold frameComplete
  split
  · exact .refl n
  · exact ⟨rfl, rfl, rfl, rfl, rfl, rfl, rfl, rfl, id, fun _ h => by simp [countFate, h]⟩

/-- What the work on a head keeps, `withHead` keeps. -/
theorem withHead_induct {P : Node → Prop} {kind : Nat} {work : List Byte → Node → Node} {n : Node}
    (hw : ∀ f, n.rx.queue ≠ [] → P (work f n)) (h : P n) : P (withHead kind work n) := by
  unfold withHead
  split
  · exact h
  next f rest hq =>
    split
    · exact hw f (by simp [hq])
    · exact h

/-- The entry of a station that a STATUS taken writes (R44); an aging outstanding then finds age 0 (log entry 1). -/
def statusEntry (s : Nat) (f : List Byte) (n : Node) : Entry :=
  { station := s, freshness := .fresh, lastSeq := frameSeq f, content := decodeStatus (framePayload f)
    age := if n.due.contains (.peerStale s) || n.due.contains (.peerLost s) then 1 else 0 }

/-- The part with a STATUS taken, before a changed towed set is judged (R44). -/
def heardStatus (s : Nat) (f : List Byte) (n : Node) : Node :=
  dropDue (.peerStale s) (dropDue (.peerLost s) (putEntry s (n.statusEntry s f) n))

theorem takeStatus_eq (s : Nat) (f : List Byte) (n : Node) : takeStatus s f n =
    if (heardStatus s f n).towedSet = n.towedSet then heardStatus s f n else superviseTow (heardStatus s f n) := rfl

theorem onlyRaises_takeStatus (s : Nat) (f : List Byte) (n : Node) : OnlyRaises n (takeStatus s f n) := by
  have h : KeepsCourse n (heardStatus s f n) :=
    ((keepsCourse_putEntry s (by simp [statusEntry]) n).trans (keepsCourse_dropDue _ _)).trans (keepsCourse_dropDue _ _)
  rw [takeStatus_eq]
  split
  · exact .keeps h
  · exact .trans (.keeps h) (onlyRaises_superviseTow _)

theorem onlyRaises_applyStatus (n : Node) : OnlyRaises n (applyStatus n) := by
  refine withHead_induct (P := OnlyRaises n) (fun f _ => ?_) (.refl n)
  dsimp only
  split
  · exact .keeps (keepsCourse_setFate _ _)
  · split
    · exact .trans (onlyRaises_takeStatus _ _ _) (.keeps (keepsCourse_setFate _ _))
    · exact .keeps (keepsCourse_setFate _ _)

theorem keepsCourse_applyPermit (n : Node) : KeepsCourse n (applyPermit n) :=
  withHead_induct (fun _ _ => ⟨rfl, rfl, rfl, rfl, rfl, rfl, rfl, rfl, id, fun _ => id⟩) (.refl n)

theorem keepsCourse_applyClearLatch (n : Node) : KeepsCourse n (applyClearLatch n) := by
  refine withHead_induct (P := KeepsCourse n) (fun f _ => ?_) (.refl n)
  dsimp only
  split
  · exact .refl n
  · refine .trans ?_ (keepsCourse_closeClear _ _)
    exact ⟨rfl, rfl, rfl, rfl, rfl, rfl, rfl, rfl, id, fun _ => id⟩

theorem keepsCourse_applyInquire (n : Node) : KeepsCourse n (applyInquire n) := by
  refine withHead_induct (P := KeepsCourse n) (fun f _ => ?_) (.refl n)
  dsimp only
  split
  · refine .trans ?_ (keepsCourse_setFate _ _)
    split <;> exact .of_fields
  · exact .trans .of_fields (keepsCourse_setFate _ _)

theorem keepsCourse_arbiterStart (q : BitVec 8) (n : Node) : KeepsCourse n (arbiterStart q n) := by
  unfold arbiterStart
  split
  · exact .refl n
  dsimp only
  split
  · exact .of_fields
  split
  · exact .of_fields
  · exact .of_fields (by simp [startSlot]) (by simp [startSlot]) (by simp [startSlot]) (by simp [startSlot])
      (by simp [startSlot]) (by simp [startSlot]) (by simp [startSlot]) (by simp [startSlot])

theorem keepsCourse_releaseSlot (k : SlotKind) (n : Node) : KeepsCourse n (releaseSlot k n) := by
  cases k <;> exact ⟨rfl, rfl, rfl, rfl, rfl, rfl, rfl, rfl, id, fun _ => id⟩

theorem keepsCourse_backOff (k : SlotKind) (n : Node) : KeepsCourse n (backOff k n) := by
  cases k <;> exact ⟨rfl, rfl, rfl, rfl, rfl, rfl, rfl, rfl, id, fun _ => id⟩

theorem keepsCourse_transmitSuccess (n : Node) : KeepsCourse n (transmitSuccess n) := by
  unfold transmitSuccess
  split
  · exact .trans (keepsCourse_releaseSlot _ _) (.of_fields rfl rfl rfl rfl rfl rfl rfl rfl)
  · exact .refl n

theorem keepsCourse_collision (c : Option Nat) (n : Node) : KeepsCourse n (collision c n) := by
  unfold collision
  split
  next k _ _ => cases k <;> exact ⟨rfl, rfl, rfl, rfl, rfl, rfl, rfl, rfl, id, fun _ => id⟩
  · exact .refl n

theorem keepsCourse_jamEnd (n : Node) : KeepsCourse n (jamEnd n) := by
  unfold jamEnd
  split
  · split
    · exact keepsCourse_backOff _ _
    split
    · exact keepsCourse_releaseSlot _ _
    split
    · exact .trans .of_fields (keepsCourse_releaseSlot _ _)
    · exact keepsCourse_backOff _ _
  · exact .refl n

theorem keepsCourse_backoffEnd (k : SlotKind) (n : Node) : KeepsCourse n (backoffEnd k n) := by
  unfold backoffEnd
  split
  · exact .of_fields
  · exact .refl n

theorem keepsCourse_burstStart (n : Node) : KeepsCourse n (burstStart n) := by
  unfold burstStart
  split
  · exact .of_fields
  · exact .refl n

theorem keepsCourse_startByteFound (n : Node) : KeepsCourse n (startByteFound n) := by
  unfold startByteFound
  split
  · exact .of_fields
  · exact .refl n

end Node

end Sys2Proof.Machine
end

section
/-! The acts that change the course of a part, and the induction over a step for a property of the course. -/

namespace Sys2Proof.Machine

/-- A supply scale lies between 32 and 256 (R92). -/
theorem supplyScaleOf_bounds (budget demand : Nat) :
    32 ≤ supplyScaleOf budget demand ∧ supplyScaleOf budget demand ≤ 256 := by
  unfold supplyScaleOf
  split
  · exact ⟨by decide, Nat.le_refl _⟩
  · exact ⟨le_max_left _ _, max_le (by decide) (Nat.div_le_of_le_mul (by nlinarith))⟩

namespace Node

/-- What comes next is a brake out of step, the hold causes, or, with these in step, a change of phase. -/
theorem nextConsequence_cases {tick : Bool} {n : Node} {c : Consequence} (h : n.nextConsequence tick = some c) :
    (∃ a, c = .brake a) ∨ c = .holds ∨ n.cue.holds = n.wantedHolds ∧ n.phaseConsequence tick = some c := by
  unfold nextConsequence at h
  split at h
  · cases h; exact .inl ⟨_, rfl⟩
  split at h
  · cases h; exact .inl ⟨_, rfl⟩
  split at h
  · cases h; exact .inr (.inl rfl)
  next hh => exact .inr (.inr ⟨by simpa using Eq.symm (by simpa using hh), h⟩)

/-- A change of phase comes in its phase, with its conditions (R72 to R83, R114, R115, R122). -/
theorem phaseConsequence_cases {tick : Bool} {n : Node} {c : Consequence} (h : n.phaseConsequence tick = some c) :
    (c = .arming ∧ n.cue.phase = .idle ∧ n.cue.queue ≠ [] ∧ n.faults = 0 ∧ n.allFresh = true)
      ∨ (c = .refusal ∧ n.cue.phase = .armed ∧ n.refusedByPeer n.currentCue = true)
      ∨ (c = .start ∧ n.cue.phase = .armed ∧ n.allArmed n.currentCue = true ∧ n.cue.permit.isSome = true
          ∧ n.cue.holds = 0)
      ∨ (c = .hold ∧ n.cue.phase = .moving ∧ n.cue.holds ≠ 0)
      ∨ (c = .arrival ∧ n.cue.phase = .moving ∧ n.axisArrived tick .ring = true ∧ n.axisArrived tick .tilt = true)
      ∨ (c = .resume ∧ n.cue.phase = .holding ∧ n.cue.holds = 0 ∧ n.allFresh = true ∧ n.cue.permit.isSome = true)
      ∨ (c = .stop ∧ n.cue.phase = .stopping ∧ n.headAtRest = true)
      ∨ (c = .retirement ∧ n.cue.phase = .done ∧ n.allDone n.currentCue = true)
      ∨ (c = .rampEnd ∧ n.cue.phase = .halted) := by
  unfold phaseConsequence at h
  split at h
  · cases h
  · cases h
  · split at h
    next hp hg =>
      cases h
      simp only [Bool.and_eq_true, beq_iff_eq] at hg
      refine .inl ⟨rfl, hp, ?_, hg.1.2, hg.2⟩
      rintro hq
      simp [headCue, hq] at hg
    next => cases h
  · split at h
    next hp hg => cases h; exact .inr (.inl ⟨rfl, hp, hg⟩)
    next hp _ =>
      split at h
      next hg =>
        cases h
        simp only [Bool.and_eq_true, beq_iff_eq] at hg
        exact .inr (.inr (.inl ⟨rfl, hp, hg.1.1, hg.1.2, hg.2⟩))
      next => cases h
  · split at h
    next hp hg => cases h; exact .inr (.inr (.inr (.inl ⟨rfl, hp, by simpa using hg⟩)))
    next hp _ =>
      split at h
      next hg =>
        cases h
        simp only [Bool.and_eq_true] at hg
        exact .inr (.inr (.inr (.inr (.inl ⟨rfl, hp, hg.1, hg.2⟩))))
      next => cases h
  · split at h
    next hp hg =>
      cases h
      simp only [Bool.and_eq_true, beq_iff_eq] at hg
      exact .inr (.inr (.inr (.inr (.inr (.inl ⟨rfl, hp, hg.1.1, hg.1.2, hg.2⟩)))))
    next => cases h
  · split at h
    next hp hg => cases h; exact .inr (.inr (.inr (.inr (.inr (.inr (.inl ⟨rfl, hp, hg⟩))))))
    next => cases h
  · cases h
  · split at h
    next hp hg => cases h; exact .inr (.inr (.inr (.inr (.inr (.inr (.inr (.inl ⟨rfl, hp, hg⟩)))))))
    next => cases h
  · split at h
    next hp hg => cases h; exact .inr (.inr (.inr (.inr (.inr (.inr (.inr (.inr ⟨rfl, hp⟩)))))))
    next => cases h

/-- What an axis becomes at a tick, by the regime of R90; the pinch count of a MOVING tick is left open (R99). -/
inductive PlansTo (a : Axis) (n : Node) : Planner → Prop
  | unplanned : n.inService = false → PlansTo a n (n.planner a)
  | follows : n.inService = true → n.follows a = true →
      PlansTo a n ((n.planner a).follow (Live.softLimits n.live a) (n.measured a))
  | profile (pinch : Nat) : n.follows a = false → n.cue.phase = .moving → n.underway a = true →
      PlansTo a n { n.profileStep a with pinch }
  | controlled : n.follows a = false → n.cue.phase = .holding ∨ n.cue.phase = .stopping → n.underway a = true →
      PlansTo a n
        { (n.planner a).commit (n.clamped a ((n.planner a).rampCandidate (n.normalStep a))) with pinch := 0 }
  | emergency : n.follows a = false → n.cue.phase = .halted → 0 < (n.planner a).velocity →
      PlansTo a n
        { (n.planner a).commit ((n.planner a).rampCandidate (accelStep (Live.emerg n.live a))) with pinch := 0 }
  | held : n.inService = true → n.follows a = false → PlansTo a n (n.planner a).hold

/-- An axis at a tick writes its planner, by its regime, and at most marks its pinch limit (R90, R99). -/
theorem planAxis_eq (a : Axis) (n : Node) :
    ∃ p d, planAxis a n = { n.setPlanner a p with due := d } ∧ PlansTo a n p := by
  have self : n = { n.setPlanner a (n.planner a) with due := n.due } := by cases a <;> rfl
  have set (p : Planner) : n.setPlanner a p = { n.setPlanner a p with due := n.due } := by cases a <;> rfl
  unfold planAxis
  split
  next hs => exact ⟨_, _, self, .unplanned hs⟩
  next hs =>
    simp only [Bool.not_eq_false] at hs
    split
    next hf => exact ⟨_, _, set _, .follows hs hf⟩
    next hf =>
      simp only [Bool.not_eq_true] at hf
      split
      next hm =>
        unfold profileTick
        dsimp only
        split
        · split
          · exact ⟨_, _, rfl, .profile (n.profileStep a).pinch hf hm.1 hm.2⟩
          · exact ⟨_, _, set _, .profile _ hf hm.1 hm.2⟩
        · exact ⟨_, _, set _, .profile _ hf hm.1 hm.2⟩
      · split
        next hm => exact ⟨_, _, set _, .controlled hf hm.1 hm.2⟩
        · split
          next hm => exact ⟨_, _, set _, .emergency hf hm.1 hm.2.2⟩
          · exact ⟨_, _, set _, .held hs hf⟩

theorem planAxis_cue (a : Axis) (n : Node) : (planAxis a n).cue = n.cue := by
  obtain ⟨p, d, h, -⟩ := planAxis_eq a n
  simp [h]

theorem planAxis_supplyScale (a : Axis) (n : Node) : (planAxis a n).supplyScale = n.supplyScale := by
  obtain ⟨p, d, h, -⟩ := planAxis_eq a n
  simp [h]

/-- The head fails in IDLE, at its arming, or in ARMED (R72 to R74). -/
def MayFail (n : Node) : Prop := n.cue.phase = .idle ∨ n.cue.phase = .armed

/-- `P` is kept by whatever keeps the course, by faults, and by each of the acts that change the course, but for the planners,
the start of the part, and the fault and tow parts of a CLEAR. -/
structure MoveClosed (P : Node → Prop) : Prop where
  keeps : ∀ {n m}, KeepsCourse n m → P n → P m
  raise : ∀ k n, P n → P (raise k n)
  halt : ∀ n, n.inService = true → n.cue.phase ≠ .halted → P n → P (enterHalted n)
  arm : ∀ n, n.cue.phase = .idle → n.cue.queue ≠ [] → n.faults = 0 → P n → P (enterArmed n)
  fail : ∀ r n, n.MayFail → P n → P (failHead r n)
  start : ∀ n, n.cue.phase = .armed → n.allArmed n.currentCue = true → P n → P (enterMoving n)
  hold : ∀ n, n.cue.phase = .moving → P n → P (setPhase .holding n)
  arrive : ∀ n, n.cue.phase = .moving → P n → P (enterSettling n)
  resume : ∀ n, n.cue.phase = .holding → P n → P (setPhase .moving n)
  stop : ∀ n, n.cue.phase = .stopping → P n → P (setPhase .idle (retireHead .cancelled n))
  retire : ∀ n, n.cue.phase = .done → P n → P (retireDone n)
  settle : ∀ n, n.cue.phase = .settling → P n → P (setPhase .done n)
  tow : ∀ n, P n → P (enterTowed n)
  join : ∀ r n, n.rx.queue ≠ [] → n.holdsCue r.id = false → n.refusalOf r = none → P n →
    P { n with cue := { n.cue with queue := n.cue.queue ++ [n.entryOf r] } }
  cancel : ∀ id n, P n → P (cancelCue id n)
  reset : ∀ n, P n → P (softReset n)

/-- `P` is kept by every act that changes the course. -/
structure CourseClosed (P : Node → Prop) : Prop extends MoveClosed P where
  plan : ∀ a n, (n.inService = true → n.supplyScale ≤ 256) → P n → P (planAxis a n)
  clearFaults : ∀ n, P n → P (clearFaults n)
  clearTow : ∀ n, P n → P (clearTow n)
  powerOn : ∀ straps pins, P (powerOn straps pins)
  read : ∀ bytes n, P n → P (configReadComplete bytes n)

end Node

end Sys2Proof.Machine

namespace Sys2Proof

/-- The commands whose effect is made of the acts that `MoveClosed` names. -/
def Instr.IsMove : Instr → Bool
  | .liveCopyAlteration _ _ | .controlTick _ | .powerOn _ _ | .configReadComplete _ | .clearFaultPart | .clearTowPart => false
  | _ => true

theorem Instr.InBlock.isMove {c : Instr} (h : c.InBlock) : c.IsMove = true := by
  rcases h with ⟨d, rfl⟩ | ⟨r, rfl⟩
  · cases d <;> rfl
  · rfl

/-- Of what a tick takes, the fault and tow parts of a CLEAR alone are made of more. -/
theorem Instr.isMove_of_inTick {c : Instr} (h : c.InTick = true) :
    c.IsMove = true ∨ c = .clearFaultPart ∨ c = .clearTowPart := by
  cases c <;> simp_all [Instr.InTick, Instr.IsMove]

end Sys2Proof

namespace Sys2Proof.Machine

namespace Node

namespace MoveClosed

variable {P : Node → Prop} (hP : MoveClosed P)
include hP

theorem onlyRaises {n m : Node} (h : OnlyRaises n m) (hn : P n) : P m := h.induct hP.keeps hP.raise hn

theorem consequence (tick : Bool) (c : Consequence) (n : Node) (hc : n.nextConsequence tick = some c) (h : P n) :
    P (applyConsequence c n) := by
  rcases nextConsequence_cases hc with ⟨a, rfl⟩ | rfl | ⟨-, hc⟩
  · exact hP.keeps (keepsCourse_changeBrake a n) h
  · exact hP.keeps (keepsCourse_setHolds _ n) h
  rcases phaseConsequence_cases hc with ⟨rfl, hp, hq, hf, -⟩ | ⟨rfl, hp, -⟩ | ⟨rfl, hp, ha, -⟩ | ⟨rfl, hp, -⟩
    | ⟨rfl, hp, hr, ht⟩ | ⟨rfl, hp, -⟩ | ⟨rfl, hp, -⟩ | ⟨rfl, hp, -⟩ | ⟨rfl, -⟩
  · unfold applyConsequence
    dsimp only
    split
    · exact hP.arm n hp hq hf h
    · exact hP.fail _ n (.inl hp) h
  · exact hP.fail _ n (.inr hp) h
  · exact hP.start n hp ha h
  · exact hP.hold n hp h
  · exact hP.arrive n hp h
  · exact hP.resume n hp h
  · exact hP.stop n hp h
  · exact hP.retire n hp h
  · refine hP.keeps ?_ h
    exact .trans (o := { n with cue := { n.cue with ramping := false } })
      ⟨rfl, rfl, rfl, rfl, rfl, rfl, rfl, rfl, id, fun _ => id⟩ (keepsCourse_note _)

theorem deliverHalt (n : Node) (h : P n) : P (Node.deliverHalt n) := by
  unfold Node.deliverHalt
  split
  · exact h
  next m rest _ =>
    have hc : P { n with
        rx := { n.rx with halts := rest }
        counters := { n.counters with
          accepted := n.counters.accepted.bump, haltsReceived := n.counters.haltsReceived.bump } } :=
      hP.keeps (n := n) (.of_fields rfl rfl rfl rfl rfl rfl rfl rfl) h
    unfold takeHalt
    dsimp only
    split
    next hg =>
      rw [Bool.and_eq_true] at hg
      exact hP.keeps (keepsCourse_writeHaltRecord _ _ _) (hP.halt _ hg.1 (by simpa using hg.2) hc)
    next => exact hc

theorem takeDue (d : Due) (n : Node) (h : P n) : P (Node.takeDue d n) := by
  unfold Node.takeDue
  split
  next =>
    have hd : P (dropDue d n) := hP.keeps (keepsCourse_dropDue d n) h
    generalize dropDue d n = m at hd ⊢
    cases d with
    | statusPeriod => exact hP.onlyRaises (onlyRaises_build m) hd
    | peerStale s => exact hP.onlyRaises (onlyRaises_entryStale s m) hd
    | peerLost s => exact hP.onlyRaises (onlyRaises_entryLost s m) hd
    | arm =>
      show P (expireArm m)
      unfold expireArm
      split
      next hp =>
        exact hP.fail _ _ (.inr hp) (hP.keeps (n := m) ⟨rfl, rfl, rfl, rfl, rfl, rfl, rfl, rfl, id, fun _ => id⟩ hd)
      next => exact hd
    | permit => exact hP.keeps (keepsCourse_expirePermit m) hd
    | brake a => exact hP.onlyRaises (onlyRaises_expireBrake a m) hd
    | recheck => exact hP.onlyRaises (onlyRaises_recheck m) hd
    | pinch a => exact hP.onlyRaises (onlyRaises_reachPinch a m) hd
    | settle =>
      show P (reachSettle m)
      unfold reachSettle
      split
      next hp => exact hP.settle _ hp (hP.keeps (n := m) ⟨rfl, rfl, rfl, rfl, rfl, rfl, rfl, rfl, id, fun _ => id⟩ hd)
      next => exact hd
    | trip c => exact hP.onlyRaises (onlyRaises_trip c m) hd
    | untrip c => exact hP.keeps (keepsCourse_untrip c m) hd
  next => exact h

theorem applyCue (n : Node) (h : P n) : P (Node.applyCue n) := by
  refine withHead_induct (P := P) (fun f hq => ?_) h
  split
  · exact hP.keeps (keepsCourse_setFate _ _) h
  · split
    · exact hP.keeps (keepsCourse_setFate _ _) h
    next r _ _ =>
      refine hP.keeps (keepsCourse_setFate _ _) ?_
      unfold judgeCue
      dsimp only
      split
      · exact hP.keeps .of_fields h
      next hheld =>
        split
        · exact hP.keeps ((KeepsCourse.of_fields).trans (keepsCourse_setRefusal _ _ _)) h
        next hnone =>
          exact hP.keeps (n := { n with cue := { n.cue with queue := n.cue.queue ++ [n.entryOf r] } })
            (.of_fields rfl rfl rfl rfl rfl rfl rfl rfl) (hP.join r n hq (by simpa using hheld) hnone h)

theorem applyCancel (n : Node) (h : P n) : P (Node.applyCancel n) := by
  refine withHead_induct (P := P) (fun f _ => ?_) h
  exact hP.keeps (keepsCourse_setFate _ _) (hP.cancel _ n h)

theorem applyReset (n : Node) (h : P n) : P (Node.applyReset n) := by
  refine withHead_induct (P := P) (fun f _ => ?_) h
  split
  · exact hP.keeps (keepsCourse_setFate _ _) (hP.keeps (n := n) (.of_fields rfl rfl rfl rfl rfl rfl rfl rfl) h)
  · exact hP.reset n h

/-- Every block but the planners. -/
theorem runBlock (b : TickBlock) (hb : b.IsBlock = true) (hplan : b ≠ .planners) (n : Node) (h : P n) :
    P (Node.runBlock b n) := by
  by_cases htow : b = .towLogic
  · subst htow
    show P (decideTow n)
    unfold decideTow
    split
    · split
      · exact hP.tow n h
      · exact hP.raise _ n h
    · exact h
  exact hP.onlyRaises (onlyRaises_runBlock hb hplan htow n) h

theorem effect (c : Instr) (hc : c.IsMove = true) (n : Node) (h : P n) : P (effectOf c n) := by
  cases c with
  | liveCopyAlteration a v => cases hc
  | controlTick order => cases hc
  | powerOn straps pins => cases hc
  | configReadComplete bytes => cases hc
  | clearFaultPart => cases hc
  | clearTowPart => cases hc
  | configReadStart => exact hP.keeps (keepsCourse_configReadStart n) h
  | driveExchangeComplete reply => exact hP.keeps (keepsCourse_completeExchange reply n) h
  | sensorReadComplete a v => exact hP.onlyRaises (onlyRaises_completeRead a v n) h
  | statusPeriodExpiry => exact hP.takeDue .statusPeriod n h
  | peerEntryStale st => exact hP.takeDue (.peerStale st) n h
  | peerEntryLost st => exact hP.takeDue (.peerLost st) n h
  | armTimerExpiry => exact hP.takeDue .arm n h
  | permitTimerExpiry => exact hP.takeDue .permit n h
  | brakeTimerExpiry a => exact hP.takeDue (.brake a) n h
  | recheckTimerExpiry => exact hP.takeDue .recheck n h
  | pinchLimit a => exact hP.takeDue (.pinch a) n h
  | settleCountReached => exact hP.takeDue .settle n h
  | monitorConversion r => exact hP.keeps (keepsCourse_convert r n) h
  | monitorTrip c => exact hP.takeDue (.trip c) n h
  | monitorUntrip c => exact hP.takeDue (.untrip c) n h
  | inputLevelChange i l => exact hP.onlyRaises (onlyRaises_changeLevel i l n) h
  | frameEnd bytes part => exact hP.onlyRaises (onlyRaises_frameEnd bytes part n) h
  | frameComplete => exact hP.keeps (keepsCourse_frameComplete n) h
  | status => exact hP.onlyRaises (onlyRaises_applyStatus n) h
  | cue => exact hP.applyCue n h
  | permit => exact hP.keeps (keepsCourse_applyPermit n) h
  | halt => exact hP.deliverHalt n h
  | clearLatchPart => exact hP.keeps (keepsCourse_applyClearLatch n) h
  | cancel => exact hP.applyCancel n h
  | inquire => exact hP.keeps (keepsCourse_applyInquire n) h
  | reset straps =>
    have hs : P { n with cfg := { n.cfg with strapPins := straps } } :=
      hP.keeps (n := n) (.of_fields rfl rfl rfl rfl rfl rfl rfl rfl) h
    exact hP.applyReset _ hs
  | arbiterStart q => exact hP.keeps (keepsCourse_arbiterStart q n) h
  | transmitSuccess => exact hP.keeps (keepsCourse_transmitSuccess n) h
  | collision c => exact hP.keeps (keepsCourse_collision c n) h
  | jamEnd => exact hP.keeps (keepsCourse_jamEnd n) h
  | backoffEnd k => exact hP.keeps (keepsCourse_backoffEnd k n) h
  | rstnHeldLow => exact hP.keeps (keepsCourse_holdReset n) h
  | burstStart => exact hP.keeps (keepsCourse_burstStart n) h
  | startByteFound => exact hP.keeps (keepsCourse_startByteFound n) h

theorem keptBy : KeptBy P (fun c => c.IsMove = true) (fun b => b ≠ .planners) where
  consequence := hP.consequence
  build n h := hP.onlyRaises (onlyRaises_build n) h
  mark n _ h := hP.keeps (n := n) (.of_fields rfl rfl rfl rfl rfl rfl rfl rfl) h
  pend n _ h := hP.keeps (n := n) (.of_fields rfl rfl rfl rfl rfl rfl rfl rfl) h
  allow n h := hP.keeps (n := n) (.of_fields rfl rfl rfl rfl rfl rfl rfl rfl) h
  effect c n hc h := hP.effect c hc n h
  block b n hplan hb h := hP.runBlock b hb hplan n h

/-- The fault part of a CLEAR keeps what the clearing of the faults keeps. -/
theorem applyClearFault (hclear : ∀ n, P n → P (Node.clearFaults n)) (n : Node) (h : P n) : P (Node.applyClearFault n) := by
  refine withHead_induct (P := P) (fun f _ => ?_) h
  dsimp only
  split
  · exact h
  · refine hP.keeps (keepsCourse_closeClear _ _) (hP.keeps ?_ (hclear n h))
    exact .of_fields rfl rfl rfl rfl rfl rfl rfl rfl

/-- The tow part of a CLEAR keeps what the return to DRIVEN keeps. -/
theorem applyClearTow (hclear : ∀ n, P n → P (Node.clearTow n)) (n : Node) (h : P n) : P (Node.applyClearTow n) := by
  refine withHead_induct (P := P) (fun f _ => ?_) h
  dsimp only
  split
  · exact h
  · refine hP.keeps (keepsCourse_closeClear _ _) (hP.keeps ?_ (hclear n h))
    exact .of_fields rfl rfl rfl rfl rfl rfl rfl rfl

end MoveClosed

namespace CourseClosed

variable {P : Node → Prop} (hP : CourseClosed P)
include hP

/-- The planners act after the supply scale is worked out, which is at most 256 in service (R92). -/
theorem runPlanners (n : Node) (h : P n) : P (Node.runPlanners n) := by
  have hr : P (rescale n) ∧ ((rescale n).inService = true → (rescale n).supplyScale ≤ 256) := by
    unfold rescale
    split
    · exact ⟨hP.keeps (n := n) (.of_fields rfl rfl rfl rfl rfl rfl rfl rfl) h, fun _ => (supplyScaleOf_bounds _ _).2⟩
    next hs => exact ⟨h, fun h' => absurd h' hs⟩
  refine hP.plan .tilt _ ?_ (hP.plan .ring _ hr.2 hr.1)
  have hcue : (planAxis .ring (rescale n)).cue = (rescale n).cue := planAxis_cue _ _
  have hsc : (planAxis .ring (rescale n)).supplyScale = (rescale n).supplyScale := planAxis_supplyScale _ _
  rw [inService, hcue, hsc]
  exact hr.2

theorem keptBy : KeptBy P
    (fun c => (∀ address value, c ≠ .liveCopyAlteration address value) ∧ ∀ order, c ≠ .controlTick order) (fun _ => True) :=
  { hP.toMoveClosed.keptBy with
    effect := fun c n hc h => by
      by_cases hmove : c.IsMove = true
      · exact hP.toMoveClosed.effect c hmove n h
      cases c with
      | liveCopyAlteration a v => exact absurd rfl (hc.1 a v)
      | controlTick order => exact absurd rfl (hc.2 order)
      | powerOn straps pins => exact hP.powerOn straps pins
      | configReadComplete bytes => exact hP.read bytes n h
      | clearFaultPart => exact hP.toMoveClosed.applyClearFault hP.clearFaults n h
      | clearTowPart => exact hP.toMoveClosed.applyClearTow hP.clearTow n h
      | _ => exact absurd rfl hmove
    block := fun b n _ hb h => by
      by_cases hplan : b = .planners
      · subst hplan; exact hP.runPlanners n h
      · exact hP.toMoveClosed.runBlock b hb hplan n h }

/-- Every command but an upset keeps a property of the course. -/
theorem exec {c : Instr} {s t : State} (hc : ∀ address value, c ≠ .liveCopyAlteration address value)
    (ht : Machine.exec c s = .next t) (h : P s.node) : P t.node := by
  refine hP.keptBy.exec ⟨nofun, nofun⟩ (fun hn => ⟨hc, hn⟩) (fun _ => ⟨fun c hin => ?_, fun _ => trivial⟩) ht h
  constructor
  · rintro a v rfl; cases hin
  · rintro order rfl; cases hin

/-- Every command keeps a property of the course that an upset keeps too. -/
theorem exec_all (hupset : ∀ a v n, P n → P (alterLiveCopy a v n)) {c : Instr} {s t : State}
    (ht : Machine.exec c s = .next t) (h : P s.node) : P t.node := by
  have hQ : KeptBy P (fun c => ∀ order, c ≠ .controlTick order) (fun _ => True) :=
    { hP.keptBy with
      effect := fun c n hc h => by
        by_cases ha : ∃ address value, c = .liveCopyAlteration address value
        · obtain ⟨a, v, rfl⟩ := ha
          exact hupset a v n h
        · exact hP.keptBy.effect c n ⟨fun a v e => ha ⟨a, v, e⟩, hc⟩ h }
  refine hQ.exec nofun (fun hn => hn) (fun _ => ⟨fun c hin => ?_, fun _ => trivial⟩) ht h
  rintro order rfl; cases hin

end CourseClosed

end Node

end Sys2Proof.Machine
end

section
/-! The laws of O57: where a fault is latched, and what is heard, in the phases of motion. -/

namespace Sys2Proof.Machine

/-- No fault of lowest code stands only in the empty set. -/
theorem FaultSet.eq_zero_of_lowest {f : FaultSet} (h : f.lowest = none) : f = 0 := by
  have hall : ∀ k ∈ FaultKind.all, f.has k = false := by
    simpa [FaultSet.lowest, List.find?_eq_none] using h
  refine BitVec.eq_of_getLsbD_eq fun i hi => ?_
  rw [show (0 : FaultSet).getLsbD i = false from BitVec.getLsbD_zero]
  simp only [FaultKind.all, List.forall_mem_cons, FaultSet.has, FaultKind.bit, FaultKind.code] at hall
  obtain ⟨h0, h1, h2, h3, h4, h5, h6, h7, h8, h9, h10, h11, h12, -⟩ := hall
  interval_cases i <;> assumption

namespace Node

/-! ### The phase after each act -/

/-- A fault raised changes nothing, or leaves the part HALTED (R117, R119, R120). -/
theorem raise_cases (k : FaultKind) (n : Node) :
    raise k n = n ∨ n.inService = true ∧ n.faults.has k = false ∧ (raise k n).cue.phase = .halted := by
  by_cases h : n.inService = false ∨ n.faults.has k = true
  · exact .inl (if_pos h)
  · simp only [not_or, Bool.not_eq_false, Bool.not_eq_true] at h
    refine .inr ⟨h.1, h.2, ?_⟩
    rw [raise_eq h.1 h.2, requestHalt_cue_phase]
    split
    next hp => rw [(latched_same k n).1]; exact hp
    · rw [writeHaltRecord_cue_phase, enterHalted_cue_phase]

theorem raiseIf_cases (b : Bool) (k : FaultKind) (n : Node) :
    raiseIf b k n = n ∨ n.inService = true ∧ (raiseIf b k n).cue.phase = .halted := by
  unfold raiseIf
  split
  · rcases raise_cases k n with h | ⟨hs, -, hp⟩
    · exact .inl h
    · exact .inr ⟨hs, hp⟩
  · exact .inl rfl

/-- The part as MOVING is entered, before the towed set is judged (R75, R76, R85, R91). -/
def started (n : Node) : Node := setPhase .moving (startAxis .tilt (startAxis .ring (markHead false n)))

theorem enterMoving_cases (n : Node) : enterMoving n = started n ∨ (enterMoving n).cue.phase = .halted := by
  rcases raiseIf_cases (n.started.cue.phase.inMotion && n.started.headMoves .ring && n.started.towBreach) .tow n.started
    with h | ⟨-, h⟩
  · exact .inl h
  · exact .inr h

@[simp] theorem started_cue_phase (n : Node) : (started n).cue.phase = .moving := setPhase_phase _ _
@[simp] theorem started_faults (n : Node) : (started n).faults = n.faults := by simp [started]
@[simp] theorem started_peers (n : Node) : (started n).peers = n.peers := by simp [started]

/-- The part with MCS raised and the copies of a read formed and judged (R169, R170). -/
def readIn (bytes : List Byte) (n : Node) : Node :=
  { n with cfg := { n.cfg with
    read := .idle, mcsLow := false, msi := [], raw := bytes, live := formLiveCopy bytes
    status := judgeConfig bytes n.cfg.straps } }

@[simp] theorem readIn_faults (bytes : List Byte) (n : Node) : (readIn bytes n).faults = n.faults := rfl

theorem configReadComplete_eq {bytes : List Byte} {n : Node} (h : n.cue.phase = .starting ∧ n.cfg.read = .reading) :
    configReadComplete bytes n =
      if judgeConfig bytes n.cfg.straps = .valid then startConfigured (readIn bytes n)
      else startUnconfigured (readIn bytes n) := if_pos h

/-- A configuration read completes only in STARTING: an invalid one gives CONFIG_FAULT, a valid one a start (R173, R174). -/
theorem configReadComplete_cases (bytes : List Byte) (n : Node) :
    configReadComplete bytes n = n
      ∨ n.cue.phase = .starting ∧
          (judgeConfig bytes n.cfg.straps = .valid ∧ configReadComplete bytes n = startConfigured (readIn bytes n)
            ∨ judgeConfig bytes n.cfg.straps ≠ .valid ∧ configReadComplete bytes n = startUnconfigured (readIn bytes n)) := by
  by_cases h : n.cue.phase = .starting ∧ n.cfg.read = .reading
  · refine .inr ⟨h.1, ?_⟩
    rw [configReadComplete_eq h]
    split
    next hv => exact .inl ⟨hv, rfl⟩
    next hv => exact .inr ⟨hv, rfl⟩
  · exact .inl (if_neg h)

@[simp] theorem startUnconfigured_cue_phase (n : Node) : (startUnconfigured n).cue.phase = .configFault := by
  simp [startUnconfigured, refreshAttention]

/-- The part as a VALID read has it, before the kept faults and the emergency-stop chain are judged (R174). -/
def configured (n : Node) : Node :=
  refreshAttention (startSupervision .tilt (startSupervision .ring (startPlanner .tilt (startPlanner .ring
    (setPhase .idle { n with
      tx := { n.tx with random := seedFor (Live.groupTag n.live) n.station }
      peers := { n.peers with
        map := ringMapOf n.live
        entries := (ringMapOf n.live).fitted.map (fun s => if s = n.station then Entry.blankOwn s else Entry.blankPeer s) }
      monitor := { n.monitor with turn := channels.find? (Live.channelEnabled n.live) }
      cfg := { n.cfg with
        startDigest := digestOf n.live, lastDigest := digestOf n.live, recheck := some 256 } })))))

theorem startConfigured_eq (n : Node) : startConfigured n =
    raiseIf (!(haltForKeptFaults n.configured).chainClosed) .estop (haltForKeptFaults n.configured) := rfl

@[simp] theorem configured_cue_phase (n : Node) : n.configured.cue.phase = .idle := by
  simp [configured, refreshAttention, startSupervision, startPlanner]

@[simp] theorem configured_faults (n : Node) : n.configured.faults = n.faults := by
  simp [configured, refreshAttention, startSupervision, startPlanner]

/-- Kept faults take the started wagon to HALTED (R128). -/
theorem haltForKeptFaults_cases (n : Node) :
    n.faults = 0 ∧ haltForKeptFaults n = n ∨ (haltForKeptFaults n).cue.phase = .halted := by
  unfold haltForKeptFaults
  split
  next h => exact .inl ⟨FaultSet.eq_zero_of_lowest h, rfl⟩
  · exact .inr (by simp)

/-- A started wagon is IDLE without a fault, or HALTED (R128, R174). -/
theorem startConfigured_cases (n : Node) :
    n.faults = 0 ∧ startConfigured n = n.configured ∨ (startConfigured n).cue.phase = .halted := by
  rw [startConfigured_eq]
  rcases raiseIf_cases (!(haltForKeptFaults n.configured).chainClosed) .estop (haltForKeptFaults n.configured) with h | ⟨-, h⟩
  · rw [h]
    rcases haltForKeptFaults_cases n.configured with ⟨hf, he⟩ | hp
    · exact .inl ⟨by simpa using hf, he⟩
    · exact .inr hp
  · exact .inr h

/-- CANCEL of the head: the phase it leads to (R82). -/
theorem cancelHead_cases (n : Node) :
    cancelHead n = n ∨ cancelHead n = retireHead .cancelled n ∧ (n.cue.phase = .idle ∨ n.cue.phase = .halted)
      ∨ cancelHead n = setPhase .idle (retireHead .cancelled n) ∧ n.cue.phase = .armed
      ∨ cancelHead n = setPhase .stopping n ∧ (n.cue.phase = .moving ∨ n.cue.phase = .holding) := by
  unfold cancelHead
  split
  next h => exact .inr (.inl ⟨rfl, .inl h⟩)
  next h => exact .inr (.inr (.inl ⟨rfl, h⟩))
  next h => exact .inr (.inr (.inr ⟨rfl, .inl h⟩))
  next h => exact .inr (.inr (.inr ⟨rfl, .inr h⟩))
  next h => exact .inr (.inl ⟨rfl, .inr h⟩)
  · exact .inl rfl

/-- CANCEL: nothing, the head's, or a queued cue's retirement, which leaves the head (R81, R82). -/
theorem cancelCue_cases (id : CueId) (n : Node) :
    cancelCue id n = n ∨ cancelCue id n = cancelHead n
      ∨ ∃ c rest, n.cue.queue = c :: rest ∧ c.id ≠ id ∧ rest.any (fun x => x.id == id) = true
          ∧ cancelCue id n = pushRetired id .cancelled
              { n with cue := { n.cue with queue := c :: rest.filter (fun x => x.id != id) } } := by
  unfold cancelCue
  split
  · exact .inl rfl
  next c rest hq =>
    split
    · exact .inr (.inl rfl)
    next hid =>
      split
      next hany => exact .inr (.inr ⟨c, rest, hq, hid, hany, rfl⟩)
      · exact .inl rfl

/-- The fault part of a CLEAR: nothing outside HALTED stopped; there fewer faults, and IDLE where none is left (R126). -/
theorem clearFaults_cases (n : Node) :
    clearFaults n = n
      ∨ n.cue.phase = .halted ∧ n.cue.ramping = false
        ∧ (clearFaults n).faults = n.faults.keep (fun k => !n.faultAbsent k)
        ∧ ((clearFaults n).cue = n.cue ∨ (clearFaults n).cue.phase = .idle ∧ (clearFaults n).faults = 0) := by
  unfold clearFaults
  split
  next hh =>
    simp only [haltedStopped, Bool.and_eq_true, beq_iff_eq, Bool.not_eq_true'] at hh
    refine .inr ⟨hh.1, hh.2, ?_⟩
    dsimp only
    by_cases hk : n.faults.keep (fun k => !n.faultAbsent k) = n.faults
    · rw [if_pos hk]
      split
      next h0 => exact ⟨by simp [hk], .inr ⟨by simp, by simpa using hk.symm.trans h0⟩⟩
      · exact ⟨hk.symm, .inl rfl⟩
    · rw [if_neg hk]
      split
      next h0 => exact ⟨by simp, .inr ⟨by simp, by simp [h0]⟩⟩
      · exact ⟨by simp, .inl (by simp)⟩
  · exact .inl rfl

@[simp] theorem softReset_cue_phase (n : Node) : (softReset n).cue.phase = .starting := rfl

/-! ### The laws -/

/-- A part out of HALTED, in service, has no fault. -/
theorem FaultLaw.faults_eq_zero {n : Node} (h : n.FaultLaw)
    (hp : n.cue.phase ≠ .halted ∧ n.cue.phase ≠ .starting ∧ n.cue.phase ≠ .configFault) : n.faults = 0 := by
  by_contra hf
  rcases h hf with h | h | h
  · exact hp.1 h
  · exact hp.2.1 h
  · exact hp.2.2 h

theorem faultLaw_of_zero {n : Node} (h : n.faults = 0) : n.FaultLaw := fun hf => absurd h hf

/-- Every act keeps the place of the faults: it leaves none, or a phase that may have them. -/
theorem faultLaw_closed : CourseClosed FaultLaw where
  keeps hk h := by
    unfold FaultLaw
    rw [hk.faults, hk.phase]
    exact h
  raise k n h := by
    rcases raise_cases k n with he | ⟨-, -, hp⟩
    · rw [he]; exact h
    · exact fun _ => .inl hp
  halt n _ _ _ := fun _ => .inl (enterHalted_cue_phase n)
  arm n _ _ hf _ := faultLaw_of_zero ((enterArmed_faults n).trans hf)
  fail r n hp h := by
    refine faultLaw_of_zero ((failHead_faults r n).trans (h.faults_eq_zero ?_))
    rcases hp with hp | hp <;> simp [hp]
  start n hp _ h := by
    rcases enterMoving_cases n with he | hp'
    · exact faultLaw_of_zero (by rw [he, started_faults]; exact h.faults_eq_zero (by simp [hp]))
    · exact fun _ => .inl hp'
  hold n hp h := faultLaw_of_zero (by simpa using h.faults_eq_zero (by simp [hp]))
  arrive n hp h := faultLaw_of_zero (by simpa using h.faults_eq_zero (by simp [hp]))
  resume n hp h := faultLaw_of_zero (by simpa using h.faults_eq_zero (by simp [hp]))
  stop n hp h := faultLaw_of_zero (by simpa using h.faults_eq_zero (by simp [hp]))
  retire n hp h := faultLaw_of_zero (by simpa using h.faults_eq_zero (by simp [hp]))
  settle n hp h := faultLaw_of_zero (by simpa using h.faults_eq_zero (by simp [hp]))
  plan a n _ h := by
    obtain ⟨p, d, he, -⟩ := planAxis_eq a n
    rw [he]
    unfold FaultLaw at h ⊢
    simpa using h
  tow n h := by
    unfold FaultLaw at h ⊢
    simpa [enterTowed] using h
  clearFaults n h := by
    rcases clearFaults_cases n with he | ⟨hp, -, -, hc | ⟨-, hf⟩⟩
    · rw [he]; exact h
    · exact fun _ => .inl (by rw [hc]; exact hp)
    · exact faultLaw_of_zero hf
  clearTow n h := by
    unfold FaultLaw at h ⊢
    simpa using h
  join r n _ _ _ h := h
  cancel id n h := by
    rcases cancelCue_cases id n with he | he | ⟨c, rest, -, -, -, he⟩ <;> rw [he]
    · exact h
    · rcases cancelHead_cases n with he | ⟨he, -⟩ | ⟨he, hp⟩ | ⟨he, hp⟩ <;> rw [he]
      · exact h
      · unfold FaultLaw at h ⊢
        simpa using h
      · exact faultLaw_of_zero (by simpa using h.faults_eq_zero (by simp [hp]))
      · exact faultLaw_of_zero (by simpa using h.faults_eq_zero (by rcases hp with hp | hp <;> simp [hp]))
    · exact h
  reset n _ := fun _ => .inr (.inl rfl)
  powerOn _ _ := faultLaw_of_zero rfl
  read bytes n h := by
    rcases configReadComplete_cases bytes n with he | ⟨-, ⟨-, he⟩ | ⟨-, he⟩⟩ <;> rw [he]
    · exact h
    · rcases startConfigured_cases _ with ⟨hf, he⟩ | hp
      · exact faultLaw_of_zero (by rw [he, configured_faults]; exact hf)
      · exact fun _ => .inl hp
    · exact fun _ => .inr (.inr (startUnconfigured_cue_phase _))

theorem heardLaw_of_rest {n : Node} (h : n.cue.phase.inMotion = false) : n.HeardLaw :=
  fun hm => absurd (hm.symm.trans h) (by decide)

/-- A change from one phase of motion to another leaves the Peer Table. -/
theorem HeardLaw.of_peers {n m : Node} (h : n.HeardLaw) (hp : m.peers = n.peers) (hm : n.cue.phase.inMotion = true) :
    m.HeardLaw := fun _ => by rw [hp]; exact h hm

/-- Every act keeps what is heard in the phases of motion: MOVING is entered with every entry FRESH (R55, R75), and none
becomes ABSENT again. -/
theorem heardLaw_closed : CourseClosed HeardLaw where
  keeps hk h := fun hm => hk.heard (h (hk.phase ▸ hm))
  raise k n h := by
    rcases raise_cases k n with he | ⟨-, -, hp⟩
    · rw [he]; exact h
    · exact heardLaw_of_rest (by rw [hp]; rfl)
  halt n _ _ _ := heardLaw_of_rest (by rw [enterHalted_cue_phase]; rfl)
  arm n _ _ _ _ := heardLaw_of_rest (by rw [enterArmed_cue_phase]; rfl)
  fail r n _ _ := heardLaw_of_rest (by rw [failHead_cue_phase]; rfl)
  start n _ harmed _ := by
    rcases enterMoving_cases n with he | hp
    · rw [he]
      intro _ e he'
      rw [started_peers] at he'
      have := List.all_eq_true.1 harmed e he'
      simp only [Bool.and_eq_true, beq_iff_eq] at this
      rw [this.1]
      exact nofun
    · exact heardLaw_of_rest (by rw [hp]; rfl)
  hold n hp h := h.of_peers (by simp) (by rw [hp]; rfl)
  arrive n hp h := h.of_peers (by simp) (by rw [hp]; rfl)
  resume n hp h := h.of_peers (by simp) (by rw [hp]; rfl)
  stop n _ _ := heardLaw_of_rest (by simp [Phase.inMotion])
  retire n _ _ := heardLaw_of_rest (by simp [Phase.inMotion])
  settle n _ _ := heardLaw_of_rest (by simp [Phase.inMotion])
  plan a n _ h := by
    obtain ⟨p, d, he, -⟩ := planAxis_eq a n
    rw [he]
    unfold HeardLaw at h ⊢
    simpa using h
  tow n h := by
    unfold HeardLaw at h ⊢
    simpa [enterTowed] using h
  clearFaults n h := by
    rcases clearFaults_cases n with he | ⟨hp, -, -, hc | ⟨hp', -⟩⟩
    · rw [he]; exact h
    · exact heardLaw_of_rest (by rw [hc, hp]; rfl)
    · exact heardLaw_of_rest (by rw [hp']; rfl)
  clearTow n h := by
    unfold HeardLaw at h ⊢
    simpa using h
  join r n _ _ _ h := h
  cancel id n h := by
    rcases cancelCue_cases id n with he | he | ⟨c, rest, -, -, -, he⟩ <;> rw [he]
    · exact h
    · rcases cancelHead_cases n with he | ⟨he, hp⟩ | ⟨he, hp⟩ | ⟨he, hp⟩ <;> rw [he]
      · exact h
      · exact heardLaw_of_rest (by rcases hp with hp | hp <;> simp [hp, Phase.inMotion])
      · exact heardLaw_of_rest (by simp [Phase.inMotion])
      · exact h.of_peers (by simp) (by rcases hp with hp | hp <;> simp [hp, Phase.inMotion])
    · exact h
  reset n _ := heardLaw_of_rest rfl
  powerOn _ _ := heardLaw_of_rest rfl
  read bytes n h := by
    rcases configReadComplete_cases bytes n with he | ⟨-, ⟨-, he⟩ | ⟨-, he⟩⟩ <;> rw [he]
    · exact h
    · rcases startConfigured_cases _ with ⟨-, he⟩ | hp
      · exact heardLaw_of_rest (by rw [he, configured_cue_phase]; rfl)
      · exact heardLaw_of_rest (by rw [hp]; rfl)
    · exact heardLaw_of_rest (by rw [startUnconfigured_cue_phase]; rfl)

/-- An upset writes the live copy alone. -/
theorem alterLiveCopy_eq (a : Nat) (v : Byte) (n : Node) :
    ∃ l, alterLiveCopy a v n = { n with cfg := { n.cfg with live := l } } := by
  unfold alterLiveCopy
  split
  · exact ⟨_, rfl⟩
  · exact ⟨n.cfg.live, rfl⟩

/-- A cause present stands in the set (R112). -/
theorem HoldSet_when_eq_zero {c : HoldCause} {b : Bool} : HoldSet.when c b = 0#5 ↔ b = false := by
  cases b <;> cases c <;> decide

/-- In MOVING at the end of a step no hold is due, so each cause that R114 names is absent. -/
theorem movingLaw_of_done {tick : Bool} {n : Node} (h : n.nextConsequence tick = none) (hf : n.FaultLaw)
    (hh : n.HeardLaw) : n.MovingLaw := by
  intro hp
  have hholds : n.cue.holds = 0 := by
    have := phaseConsequence_of_done h
    unfold phaseConsequence at this
    simp only [hp] at this
    split at this
    · cases this
    next h0 => simpa using h0
  have hwanted : n.wantedHolds = 0 := (holds_of_calm h).symm.trans hholds
  have hserv : n.inService = true := by unfold inService; rw [hp]; rfl
  unfold wantedHolds at hwanted
  rw [if_pos hserv] at hwanted
  simp only [BitVec.ofNat_eq_ofNat, BitVec.or_eq_zero_iff, HoldSet_when_eq_zero] at hwanted
  obtain ⟨hpermit, ⟨⟨hpeer, -⟩, -⟩, -⟩ := hwanted
  refine ⟨by simpa [Option.ne_none_iff_isSome] using hpermit, hholds, hf.faults_eq_zero (by simp [hp]), fun e he => ?_⟩
  have habsent := hh (by rw [hp]; rfl) e he
  have hsilent := List.any_eq_false.1 hpeer e he
  cases hfr : e.freshness with
  | fresh => rfl
  | absent => exact absurd hfr habsent
  | stale => simp [hfr] at hsilent
  | lost => simp [hfr] at hsilent

end Node

/-- Settles O57: the places of the faults and of the ABSENT entries by induction over the acts of a step, and R114 from what is
left outstanding at its end. -/
theorem movingIsAlwaysClear : Obligations.MovingIsAlwaysClear := by
  intro c s t hf hh hm ht
  have hf' : t.node.FaultLaw := Node.faultLaw_closed.exec_all (fun a v n h => by
    obtain ⟨l, e⟩ := Node.alterLiveCopy_eq a v n; rw [e]; exact h) ht hf
  have hh' : t.node.HeardLaw := Node.heardLaw_closed.exec_all (fun a v n h => by
    obtain ⟨l, e⟩ := Node.alterLiveCopy_eq a v n; rw [e]; exact h) ht hh
  refine ⟨hf', hh', ?_⟩
  by_cases hreset : c = .rstnHeldLow
  · subst hreset; cases ht; exact hm
  cases hlow : s.node.rstnLow with
  | false =>
    obtain ⟨tick, hdone⟩ := exec_done hlow hreset ht
    exact Node.movingLaw_of_done hdone hf' hh'
  | true =>
    rcases exec_cases ht with ⟨⟨straps, pins, rfl⟩ | rfl, he⟩ | ⟨-, he⟩ | ⟨hl, -⟩ | ⟨hl, -⟩ | ⟨hl, -⟩
    · rw [he]; exact fun hp => absurd hp nofun
    · exact absurd rfl hreset
    · exact he ▸ hm
    all_goals exact absurd (hlow.symm.trans hl) (by decide)

end Sys2Proof.Machine
end

section
/-! A latched fault leaves the set by power-on or by the fault part of a CLEAR alone (R126, R128). -/

namespace Sys2Proof.Machine

/-! ### The fault set -/

theorem FaultKind.mem_all (k : FaultKind) : k ∈ FaultKind.all := by cases k <;> decide

theorem FaultSet.has_insert (f : FaultSet) (j k : FaultKind) :
    (f.insert j).has k = true ↔ f.has k = true ∨ j = k := by
  have hbit : (1 <<< j.bit : FaultSet).getLsbD k.bit = decide (j = k) := by
    cases j <;> cases k <;> decide
  unfold FaultSet.insert FaultSet.has
  rw [BitVec.getLsbD_or, hbit]
  simp

theorem FaultSet.has_foldl_insert (p : FaultKind → Bool) (k : FaultKind) : ∀ (l : List FaultKind) (g : FaultSet),
    (l.foldl (fun g k => if p k then FaultSet.insert g k else g) g).has k = true ↔ g.has k = true ∨ k ∈ l ∧ p k = true
  | [], g => by simp
  | j :: l, g => by
    rw [List.foldl_cons, FaultSet.has_foldl_insert p k l]
    split
    next hj =>
      rw [FaultSet.has_insert, List.mem_cons]
      constructor
      · rintro ((h | rfl) | h)
        · exact .inl h
        · exact .inr ⟨.inl rfl, hj⟩
        · exact .inr ⟨.inr h.1, h.2⟩
      · rintro (h | ⟨rfl | h, hp⟩)
        · exact .inl (.inl h)
        · exact .inl (.inr rfl)
        · exact .inr ⟨h, hp⟩
    next hj =>
      rw [List.mem_cons]
      constructor
      · rintro (h | h)
        · exact .inl h
        · exact .inr ⟨.inr h.1, h.2⟩
      · rintro (h | ⟨rfl | h, hp⟩)
        · exact .inl h
        · exact absurd hp hj
        · exact .inr ⟨h, hp⟩

/-- The faults kept are those in the set that satisfy the test. -/
theorem FaultSet.has_keep (f : FaultSet) (p : FaultKind → Bool) (k : FaultKind) :
    (f.keep p).has k = true ↔ f.has k = true ∧ p k = true := by
  have hzero : FaultSet.has 0#13 k = false := BitVec.getLsbD_zero
  unfold FaultSet.keep
  rw [FaultSet.has_foldl_insert (fun k => f.has k && p k)]
  simp [hzero, k.mem_all]

namespace Node

/-! ### What keeps the receive queue and the work on its head -/

@[simp] theorem entryStale_rx (s : Nat) (n : Node) : (entryStale s n).rx = n.rx := by
  unfold entryStale
  (repeat' split) <;> simp

@[simp] theorem entryLost_rx (s : Nat) (n : Node) : (entryLost s n).rx = n.rx := by
  unfold entryLost
  (repeat' split) <;> simp

@[simp] theorem trip_rx (c : Fin 8) (n : Node) : (trip c n).rx = n.rx := by
  unfold trip
  dsimp only
  split <;> simp [setLiveRecord]

@[simp] theorem untrip_rx (c : Fin 8) (n : Node) : (untrip c n).rx = n.rx := by
  unfold untrip
  dsimp only
  split <;> simp [setLiveRecord]

@[simp] theorem expireArm_rx (n : Node) : (expireArm n).rx = n.rx := by
  unfold expireArm
  split <;> simp

@[simp] theorem reachSettle_rx (n : Node) : (reachSettle n).rx = n.rx := by
  unfold reachSettle
  split <;> simp

@[simp] theorem expireBrake_rx (a : Axis) (n : Node) : (expireBrake a n).rx = n.rx := by
  unfold expireBrake
  split <;> simp

@[simp] theorem takeDue_rx (d : Due) (n : Node) : (takeDue d n).rx = n.rx := by
  unfold takeDue
  split
  · cases d with
    | _ => simp [dueEffect, expireStatusPeriod, expirePermit, recheck, reachPinch]
  · rfl

@[simp] theorem completeExchange_rx (r : Option DriveReply) (n : Node) : (completeExchange r n).rx = n.rx := by
  unfold completeExchange
  dsimp only
  (repeat' split) <;> rfl

@[simp] theorem completeRead_rx (a : Axis) (v : Option Int) (n : Node) : (completeRead a v n).rx = n.rx := by
  unfold completeRead
  dsimp only
  (repeat' split) <;> simp

@[simp] theorem forceDue_rx (n : Node) : (forceDue n).rx = n.rx :=
  foldl_keeps (P := fun m => m.rx = n.rx) _ (fun m d h => by simpa using h) _ n rfl

@[simp] theorem forceLinks_rx (n : Node) : (forceLinks n).rx = n.rx :=
  forceLinks_keeps (P := fun m => m.rx = n.rx) (fun m h => by simpa using h) (fun a m h => by simpa using h) n rfl

/-- A HALT delivered leaves the receive side but for the HALTs (R21). -/
theorem deliverHalt_rx (n : Node) : ∃ l, (deliverHalt n).rx = { n.rx with halts := l } := by
  unfold deliverHalt
  split
  · exact ⟨n.rx.halts, rfl⟩
  next m rest _ =>
    refine ⟨rest, ?_⟩
    unfold takeHalt
    dsimp only
    split <;> simp

theorem deliverHalts_rx (n : Node) : ∃ l, (deliverHalts n).rx = { n.rx with halts := l } :=
  foldl_keeps (P := fun m => ∃ l, m.rx = { n.rx with halts := l }) _ (fun m _ ⟨l, h⟩ => by
    obtain ⟨l', h'⟩ := deliverHalt_rx m
    exact ⟨l', by rw [finish_rx, h', h]⟩) _ n ⟨n.rx.halts, rfl⟩

@[simp] theorem deliverHalts_rx_queue (n : Node) : (deliverHalts n).rx.queue = n.rx.queue := by
  obtain ⟨l, h⟩ := deliverHalts_rx n
  rw [h]

@[simp] theorem deliverHalts_rx_head (n : Node) : (deliverHalts n).rx.head = n.rx.head := by
  obtain ⟨l, h⟩ := deliverHalts_rx n
  rw [h]

/-! ### A fault stays -/

theorem raise_faults_has {j k : FaultKind} {n : Node} (h : n.faults.has k = true) : (raise j n).faults.has k = true := by
  by_cases hb : n.inService = false ∨ n.faults.has j = true
  · rwa [show raise j n = n from if_pos hb]
  · simp only [not_or, Bool.not_eq_false, Bool.not_eq_true] at hb
    have hf : (raise j n).faults = n.faults.insert j := by
      rw [raise_eq hb.1 hb.2, requestHalt_faults]
      split <;> simp [(latched_same j n)]
    rw [hf]
    exact (FaultSet.has_insert _ _ _).2 (.inl h)

/-- A latched fault stays through every act but power-on, the clearing of the faults and the planners'. -/
theorem faults_has_closed (k : FaultKind) : MoveClosed (fun n => n.faults.has k = true) where
  keeps hk h := by rw [hk.faults]; exact h
  raise _ _ h := raise_faults_has h
  halt n _ _ h := by simpa using h
  arm n _ _ _ h := by simpa using h
  fail r n _ h := by simpa using h
  start n _ _ h := by
    have hs : (started n).faults.has k = true := by simpa using h
    show (raiseIf _ _ (started n)).faults.has k = true
    unfold raiseIf
    split
    · exact raise_faults_has hs
    · exact hs
  hold n _ h := by simpa using h
  arrive n _ h := by simpa using h
  resume n _ h := by simpa using h
  stop n _ h := by simpa using h
  retire n _ h := by simpa using h
  settle n _ h := by simpa using h
  tow n h := by simpa [enterTowed] using h
  join _ _ _ _ _ h := h
  cancel id n h := by
    rcases cancelCue_cases id n with he | he | ⟨c, rest, -, -, -, he⟩ <;> rw [he]
    · exact h
    · rcases cancelHead_cases n with he | ⟨he, -⟩ | ⟨he, -⟩ | ⟨he, -⟩ <;> rw [he] <;> simpa using h
    · simpa using h
  reset _ h := h

theorem configReadComplete_faults_has {k : FaultKind} {bytes : List Byte} {n : Node} (h : n.faults.has k = true) :
    (configReadComplete bytes n).faults.has k = true := by
  rcases configReadComplete_cases bytes n with he | ⟨-, ⟨-, he⟩ | ⟨-, he⟩⟩ <;> rw [he]
  · exact h
  · rw [startConfigured_eq]
    refine (faults_has_closed k).onlyRaises (onlyRaises_raiseIf _ _ _) ?_
    unfold haltForKeptFaults
    split <;> simpa using h
  · simpa [startUnconfigured, refreshAttention] using h

/-- A latched fault stays through everything a step is made of but power-on and the fault part of a CLEAR. -/
theorem faults_has_keptBy (k : FaultKind) : KeptBy (fun n => n.faults.has k = true)
    (fun c => (∀ straps pins, c ≠ .powerOn straps pins) ∧ c ≠ .clearFaultPart ∧ ∀ order, c ≠ .controlTick order)
    (fun _ => True) :=
  { (faults_has_closed k).keptBy with
    effect := fun c n ⟨hpower, hclear, htick⟩ h => by
      by_cases hmove : c.IsMove = true
      · exact (faults_has_closed k).effect c hmove n h
      cases c with
      | liveCopyAlteration a v =>
        obtain ⟨l, e⟩ := alterLiveCopy_eq a v n
        exact (congrArg (fun m : Node => m.faults.has k) e).trans h
      | controlTick order => exact absurd rfl (htick order)
      | powerOn straps pins => exact absurd rfl (hpower straps pins)
      | configReadComplete bytes => exact configReadComplete_faults_has h
      | clearFaultPart => exact absurd rfl hclear
      | clearTowPart => exact (faults_has_closed k).applyClearTow (fun m hm => by simpa using hm) n h
      | _ => exact absurd rfl hmove
    block := fun b n _ hb h => by
      by_cases hplan : b = .planners
      · subst hplan
        have hrescale : (rescale n).faults = n.faults := by unfold rescale; split <;> rfl
        obtain ⟨p, d, hp, -⟩ := planAxis_eq .ring (rescale n)
        obtain ⟨q, e, hq, -⟩ := planAxis_eq .tilt (planAxis .ring (rescale n))
        show (planAxis .tilt (planAxis .ring (rescale n))).faults.has k = true
        rw [hq, hp]
        simpa [hrescale] using h
      · exact (faults_has_closed k).runBlock b hb hplan n h }

theorem InBlock_keeps_faults {c : Instr} (h : c.InBlock) :
    (∀ straps pins, c ≠ .powerOn straps pins) ∧ c ≠ .clearFaultPart ∧ ∀ order, c ≠ .controlTick order := by
  rcases h with ⟨d, rfl⟩ | ⟨r, rfl⟩
  · cases d <;> exact ⟨by simp [Due.command], by simp [Due.command], by simp [Due.command]⟩
  · exact ⟨by simp, by simp, by simp⟩

/-! ### The fault part that takes it away -/

/-- The conditions under which the fault part of a CLEAR takes fault `k` away (R126, R127). -/
def ClearsFault (k : FaultKind) (n : Node) : Prop :=
  n.cue.phase = .halted ∧ n.cue.ramping = false ∧ n.faultAbsent k = true

/-- A fault that the fault part takes away was absent, in HALTED stopped. -/
theorem clearsFault_of_lost {k : FaultKind} {n : Node} (h : n.faults.has k = true)
    (hlost : (clearFaults n).faults.has k = false) : n.ClearsFault k := by
  rcases clearFaults_cases n with he | ⟨hp, hr, hf, -⟩
  · rw [he, h] at hlost; cases hlost
  · refine ⟨hp, hr, ?_⟩
    by_contra ha
    have := (FaultSet.has_keep n.faults (fun k => !n.faultAbsent k) k).2 ⟨h, by simpa using ha⟩
    rw [hf, this] at hlost
    cases hlost

@[simp] theorem closeClear_faults (f : List Byte) (n : Node) : (closeClear f n).faults = n.faults :=
  (keepsCourse_closeClear f n).faults

theorem applyClearFault_lost {k : FaultKind} {n : Node} (h : n.faults.has k = true)
    (hlost : (applyClearFault n).faults.has k = false) :
    ∃ f rest, n.rx.queue = f :: rest ∧ frameKind f = 5 ∧ clearsFaults f = true ∧ n.rx.head.faultDone = false
      ∧ n.ClearsFault k := by
  unfold applyClearFault withHead at hlost
  split at hlost
  · rw [h] at hlost; cases hlost
  next f rest hq =>
    split at hlost
    next hk =>
      dsimp only at hlost
      split at hlost
      · rw [h] at hlost; cases hlost
      next hd =>
        simp only [Bool.or_eq_true, not_or, Bool.not_eq_true, Bool.not_eq_eq_eq_not, Bool.not_true] at hd
        exact ⟨f, rest, hq, hk.1, by simpa using hd.2, hd.1, clearsFault_of_lost h (by simpa using hlost)⟩
    · rw [h] at hlost; cases hlost

/-- The latch part leaves the receive queue, and of the work on its head whether the fault part is done. -/
theorem applyClearLatch_rx (n : Node) :
    (applyClearLatch n).rx.queue = n.rx.queue ∧ (applyClearLatch n).rx.head.faultDone = n.rx.head.faultDone := by
  have hclose (f : List Byte) (m : Node) :
      (closeClear f m).rx.queue = m.rx.queue ∧ (closeClear f m).rx.head.faultDone = m.rx.head.faultDone := by
    unfold closeClear
    dsimp only
    split <;> exact ⟨rfl, rfl⟩
  refine withHead_induct (P := fun m : Node => m.rx.queue = n.rx.queue ∧ m.rx.head.faultDone = n.rx.head.faultDone)
    (fun f _ => ?_) ⟨rfl, rfl⟩
  dsimp only
  split
  · exact ⟨rfl, rfl⟩
  · exact hclose _ _

theorem clearsFaults_eq (f : List Byte) : clearsFaults f = (byteAt f 8).getLsbD 0 := by
  unfold clearsFaults byteAt framePayload
  congr 1
  simp

/-- What is due by a tick takes a fault away through the CLEAR at the head alone (R20). -/
theorem forceHead_lost {k : FaultKind} {n : Node} (h : n.faults.has k = true)
    (hlost : (forceHead n).faults.has k = false) :
    ∃ f rest, n.rx.queue = f :: rest ∧ frameKind f = 5 ∧ clearsFaults f = true ∧ n.rx.head.faultDone = false
      ∧ (finish false (applyClearLatch n)).ClearsFault k := by
  have keeps {c : Instr} (hc : (∀ straps pins, c ≠ .powerOn straps pins) ∧ c ≠ .clearFaultPart ∧ ∀ order, c ≠ .controlTick order)
      {m : Node} (hm : m.faults.has k = true) : ¬(finish false (effectOf c m)).faults.has k = false := by
    rw [(faults_has_keptBy k).step hc m hm]
    decide
  unfold forceHead at hlost
  split at hlost
  · rw [h] at hlost; cases hlost
  next f rest hq =>
    split at hlost
    · rw [(keepsCourse_frameComplete n).faults, h] at hlost; cases hlost
    split at hlost
    · exact absurd hlost (keeps (c := .status) ⟨by simp, by simp, by simp⟩ h)
    · exact absurd hlost (keeps (c := .cue) ⟨by simp, by simp, by simp⟩ h)
    · exact absurd hlost (keeps (c := .permit) ⟨by simp, by simp, by simp⟩ h)
    next =>
      have hlatch : (finish false (applyClearLatch n)).faults.has k = true :=
        (faults_has_keptBy k).step (c := .clearLatchPart) ⟨by simp, by simp, by simp⟩ n h
      have hlost' : (applyClearFault (finish false (applyClearLatch n))).faults.has k = false := by
        by_contra hcon
        exact keeps (c := .clearTowPart) ⟨by simp, by simp, by simp⟩
          ((faults_has_keptBy k).finish false _ (by simpa using hcon)) hlost
      obtain ⟨g, rest', hq', hk, hc, hd, ha⟩ := applyClearFault_lost hlatch hlost'
      obtain ⟨hqueue, hdone⟩ := applyClearLatch_rx n
      rw [finish_rx, hqueue] at hq'
      rw [finish_rx, hdone] at hd
      exact ⟨g, rest', hq', hk, hc, hd, ha⟩
    · exact absurd hlost (keeps (c := .cancel) ⟨by simp, by simp, by simp⟩ h)
    · exact absurd hlost (keeps (c := .inquire) ⟨by simp, by simp, by simp⟩ h)
    · exact absurd hlost (keeps (c := .reset n.cfg.strapPins) ⟨by simp, by simp, by simp⟩ h)
    · rw [h] at hlost; cases hlost

/-- In a part at rest with nothing due the latch part of a CLEAR leaves what its fault part reads. -/
theorem clearsFault_of_latchPart {k : FaultKind} {n : Node} (hs : n.Steady)
    (h : (finish false (applyClearLatch n)).ClearsFault k) : n.ClearsFault k := by
  have hclose (f : List Byte) (m : Node) : ∃ x, closeClear f m = { m with rx := { m.rx with head := { m.rx.head with fate := x } } } := by
    unfold closeClear
    dsimp only
    split
    · exact ⟨_, rfl⟩
    · exact ⟨m.rx.head.fate, rfl⟩
  have heq : ∃ changed attention l x, applyClearLatch n = { n with
      inputs := { n.inputs with changed, attention }
      rx := { n.rx with head := { n.rx.head with latchDone := l, fate := x } } } := by
    refine withHead_induct (P := fun m : Node => ∃ changed attention l x, m = { n with
      inputs := { n.inputs with changed, attention }
      rx := { n.rx with head := { n.rx.head with latchDone := l, fate := x } } }) (fun f _ => ?_)
      ⟨n.inputs.changed, n.inputs.attention, n.rx.head.latchDone, n.rx.head.fate, rfl⟩
    dsimp only
    split
    · exact ⟨n.inputs.changed, n.inputs.attention, n.rx.head.latchDone, n.rx.head.fate, rfl⟩
    · obtain ⟨x, hx⟩ := hclose f _
      exact ⟨_, _, true, x, hx⟩
  obtain ⟨changed, attention, l, x, e⟩ := heq
  have hcalm : (applyClearLatch n).Calm := by rw [e]; exact hs.2.2
  rw [finish_of_none hcalm (by rw [e]; exact hs.2.1), e] at h
  obtain ⟨hp, hr, ha⟩ := h
  exact ⟨hp, hr, by cases k <;> exact ha⟩

theorem forceLinks_idle {n : Node} (hx : n.drive.exchanging = false) (hr : ∀ a, (n.axisDrive a).reading = false) :
    forceLinks n = n := by
  have h1 : n.drive.ring.reading = false := hr .ring
  have h2 : n.drive.tilt.reading = false := hr .tilt
  simp [forceLinks, hx, h1, h2]

end Node

/-- Settles O60: everything a step is made of but the clearing of the faults keeps a latched fault, and a tick clears by the
CLEAR at the head, before its blocks act. -/
theorem faultsAreClearedOnlyByClear : Obligations.FaultsAreClearedOnlyByClear := by
  intro c s t k hk ht hlost
  have kept {n : Node} (h : n.faults.has k = true) (he : t.node = n) : False := by
    rw [he, h] at hlost; cases hlost
  have hdeliver : s.node.deliverHalts.faults.has k = true :=
    (Node.faults_has_keptBy k).deliverHalts ⟨by simp, by simp, by simp⟩ _ hk
  rcases exec_cases ht with ⟨⟨straps, pins, rfl⟩ | rfl, he⟩ | ⟨-, he⟩ | ⟨-, order, rfl, he⟩ | ⟨-, rfl, he⟩ | ⟨-, hown, he⟩
  · exact .inl ⟨straps, pins, rfl⟩
  · exact (kept (n := Node.holdReset s.node) hk he).elim
  · exact (kept hk he).elim
  · have hbefore : s.node.deliverHalts.forceDue.forceLinks.faults.has k = true := by
      have hdue := (Node.faults_has_keptBy k).forceDue (fun d => Node.InBlock_keeps_faults (.inl ⟨d, rfl⟩)) _ hdeliver
      exact (Node.faults_has_keptBy k).forceLinks ⟨by simp, by simp, by simp⟩ (fun a => ⟨by simp, by simp, by simp⟩) _ hdue
    have hhead : s.node.deliverHalts.forceDue.forceLinks.forceHead.faults.has k = false := by
      by_contra hcon
      refine kept ?_ he
      refine (Node.faults_has_keptBy k).finish true _ ((Node.faults_has_keptBy k).runBlocks
        (fun c hc => Node.InBlock_keeps_faults hc) _ (fun _ _ => trivial) _ ?_)
      show s.node.deliverHalts.forceDue.forceLinks.forceHead.faults.has k = true
      simpa using hcon
    obtain ⟨f, rest, hq, hkind, hclear, hdone, hclears⟩ := Node.forceHead_lost hbefore hhead
    simp only [Node.forceLinks_rx, Node.forceDue_rx, Node.deliverHalts_rx_queue, Node.deliverHalts_rx_head] at hq hdone
    refine .inr ⟨.inr ⟨order, rfl⟩, f, rest, hq, hkind, Node.clearsFaults_eq f ▸ hclear, hdone, nofun, nofun,
      fun _ => hclears, fun _ hsteady hdue hx hr => ?_⟩
    have hsame : s.node.deliverHalts.forceDue.forceLinks = s.node := by
      have : s.node.forceDue = s.node := by unfold Node.forceDue; rw [hdue]; rfl
      rw [Node.deliverHalts_nil hsteady.1.2, this, Node.forceLinks_idle hx hr]
    rw [hsame] at hclears
    exact Node.clearsFault_of_latchPart hsteady hclears
  · exact (kept ((Node.faults_has_keptBy k).step (c := .halt) ⟨by simp, by simp, by simp⟩ _ hk) he).elim
  · by_cases hclear : c = .clearFaultPart
    · subst hclear
      have hlost' : (Node.applyClearFault s.node.deliverHalts).faults.has k = false := by
        by_contra hcon
        have hstays : (Node.applyClearFault s.node.deliverHalts).faults.has k = true := by simpa using hcon
        exact kept ((Node.faults_has_keptBy k).finish false _ hstays) he
      obtain ⟨f, rest, hq, hkind, hcl, hdone, hclears⟩ := Node.applyClearFault_lost hdeliver hlost'
      simp only [Node.deliverHalts_rx_queue, Node.deliverHalts_rx_head] at hq hdone
      refine .inr ⟨.inl rfl, f, rest, hq, hkind, Node.clearsFaults_eq f ▸ hcl, hdone, fun _ => hclears,
        fun _ hnil => ?_, fun h => absurd rfl h, fun h => absurd rfl h⟩
      rw [Node.deliverHalts_nil hnil] at hclears
      exact hclears
    · refine (kept ((Node.faults_has_keptBy k).step ⟨?_, hclear, ?_⟩ _ hdeliver) he).elim
      · rintro straps pins rfl; exact hown (.inl ⟨_, _, rfl⟩)
      · rintro order rfl; exact hown (.inr (.inr (.inl ⟨_, rfl⟩)))

end Sys2Proof.Machine
end

section
/-! The course of a move: what a planner's commit keeps (R94 to R98), and the course law (R91, R95, R97, R106, R133). -/

namespace Sys2Proof.Machine

theorem Phase.drawing_of_inMotion {p : Phase} (h : p.inMotion = true) : p.drawing = true := by
  cases p <;> first | rfl | cases h

namespace Planner

/-! ### A step of a planner -/

/-- `c` lies from the setpoint to the target, in the direction of travel. -/
def Ahead (p : Planner) (c : Int) : Prop := 0 ≤ signOf p.up * (c - p.setpoint) ∧ 0 ≤ signOf p.up * (p.target - c)

theorem ahead_setpoint {p : Planner} (h : 0 ≤ p.remaining) : p.Ahead p.setpoint := by
  refine ⟨by simp, h⟩

theorem signOf_cases (up : Bool) : signOf up = 1 ∨ signOf up = -1 := by cases up <;> simp [signOf]

/-- The candidate of a target at or ahead lies from the setpoint to the target, at most `v` away (R95). -/
theorem candidate_ahead {p : Planner} (h : 0 ≤ p.remaining) (v : Nat) :
    p.Ahead (p.candidate v) ∧ signOf p.up * (p.candidate v - p.setpoint) ≤ v := by
  unfold Ahead candidate
  unfold remaining at h ⊢
  rcases signOf_cases p.up with hd | hd <;> rw [hd] at h ⊢ <;> split <;> omega

/-- The clamp keeps a candidate from the setpoint to the target, and takes it no further (R97). -/
theorem clamp_ahead {p : Planner} {c : Int} (h : 0 ≤ p.remaining) (hc : p.Ahead c) (l : List Int) (w : Nat) :
    p.Ahead (p.clamp l w c) ∧ signOf p.up * (p.clamp l w c - p.setpoint) ≤ signOf p.up * (c - p.setpoint) := by
  have stays : p.Ahead p.setpoint ∧ signOf p.up * (p.setpoint - p.setpoint) ≤ signOf p.up * (c - p.setpoint) :=
    ⟨ahead_setpoint h, by simpa using hc.1⟩
  unfold clamp
  split
  · exact ⟨hc, Int.le_refl _⟩
  · dsimp only
    generalize (if p.up = true then _ else _ : Int) = b
    split
    · exact stays
    split
    · exact ⟨hc, Int.le_refl _⟩
    split
    · unfold Ahead at hc ⊢
      rcases signOf_cases p.up with hd | hd <;> simp only [hd] at * <;> omega
    · exact stays

/-- The commit of a candidate ahead leaves the target at or ahead, and the step taken as the velocity memory (R98). -/
theorem commit_remaining {p : Planner} {c : Int} (hc : p.Ahead c) : 0 ≤ (p.commit c).remaining := hc.2

theorem commit_velocity {p : Planner} {c : Int} (hc : p.Ahead c) :
    ((p.commit c).velocity : Int) = signOf p.up * (c - p.setpoint) := Int.toNat_of_nonneg hc.1

theorem course_eq {p q : Planner} (h : p.course = q.course) :
    p.setpoint = q.setpoint ∧ p.target = q.target ∧ p.velocity = q.velocity ∧ p.remaining = q.remaining := by
  simp only [course, mk.injEq] at h
  obtain ⟨hs, hv, ht, hu, -⟩ := h
  exact ⟨hs, ht, hv, by simp only [remaining, hs, ht, hu]⟩

end Planner

namespace Node

theorem setPlanner_other {a b : Axis} (h : b ≠ a) (p : Planner) (n : Node) : (n.setPlanner a p).planner b = n.planner b := by
  cases a <;> cases b <;> first | rfl | exact absurd rfl h

theorem headMove_congr {n m : Node} (h : m.cue.queue = n.cue.queue) (a : Axis) : m.headMove a = n.headMove a := by
  simp only [headMove, headCue, h]

theorem underway_headMove {n : Node} {a : Axis} (h : n.underway a = true) : ∃ m, n.headMove a = some m := by
  unfold underway at h
  rw [Bool.and_eq_true] at h
  exact (headMoves_iff n a).1 h.1

theorem driven_of_follows {n : Node} {a : Axis} (h : n.follows a = false) : a = .ring → n.ringMode = .driven := by
  rintro rfl
  unfold follows at h
  rw [Bool.or_eq_false_iff] at h
  cases hm : n.ringMode with
  | driven => rfl
  | towed => simp [hm] at h

/-! ### What the acts do to the planners -/

theorem raise_planner (k : FaultKind) (n : Node) (a : Axis) :
    (raise k n).planner a = n.planner a ∨ (raise k n).planner a = { n.planner a with velocity := 0 } := by
  by_cases h : n.inService = false ∨ n.faults.has k = true
  · exact .inl (by rw [show raise k n = n from if_pos h])
  · simp only [not_or, Bool.not_eq_false, Bool.not_eq_true] at h
    obtain ⟨-, -, -, -, -, -, -, -, -, -, -, -, -, -, hv⟩ := latched_same k n
    have hr : (raise k n).planner a = (latched k n).planner a := by
      rw [raise_eq h.1 h.2]
      split <;> cases a <;> simp [planner]
    rw [hr, hv]
    split
    · exact .inr rfl
    · exact .inl rfl

theorem markHead_headMove (b : Bool) (n : Node) (a : Axis) : (markHead b n).headMove a = n.headMove a := by
  unfold markHead
  split
  · rfl
  next c rest hq => cases a <;> simp [headMove, headCue, hq]

theorem markHead_queue_ne (b : Bool) (n : Node) : (markHead b n).cue.queue ≠ [] ↔ n.cue.queue ≠ [] := by
  unfold markHead
  split
  · rfl
  next c rest hq => simp [hq]

@[simp] theorem startAxis_queue (a : Axis) (n : Node) : (startAxis a n).cue.queue = n.cue.queue := by
  unfold startAxis
  split <;> simp

theorem startAxis_planner_other {a b : Axis} (h : b ≠ a) (n : Node) : (startAxis a n).planner b = n.planner b := by
  unfold startAxis
  split
  · rfl
  · cases a <;> cases b <;> first | rfl | exact absurd rfl h

/-- The planner of an axis at the entry to MOVING (R91). -/
def startedPlanner (n : Node) (a : Axis) : Planner :=
  match n.headMove a with
  | none => n.planner a
  | some m => { n.planner a with
      target := m.target * 65536, up := decide ((n.planner a).setpoint ≤ m.target * 65536), velocity := 0, pinch := 0 }

theorem startAxis_planner (a : Axis) (n : Node) : (startAxis a n).planner a = n.startedPlanner a := by
  unfold startAxis startedPlanner
  cases n.headMove a with
  | none => rfl
  | some m => cases a <;> rfl

theorem started_planner (n : Node) (a : Axis) : (started n).planner a = n.startedPlanner a := by
  have hset (m : Node) (b : Axis) : (setPhase .moving m).planner b = m.planner b := by cases b <;> simp [planner]
  have hmark (b : Axis) : (markHead false n).planner b = n.planner b := by cases b <;> simp [planner]
  have hhead (m : Node) (hq : m.cue.queue = (markHead false n).cue.queue) (b : Axis) : m.headMove b = n.headMove b :=
    (headMove_congr hq b).trans (markHead_headMove false n b)
  unfold started
  rw [hset]
  cases a with
  | ring =>
    rw [startAxis_planner_other (by decide), startAxis_planner]
    unfold startedPlanner
    rw [hhead _ rfl, hmark]
  | tilt =>
    rw [startAxis_planner]
    unfold startedPlanner
    rw [hhead _ (startAxis_queue _ _), startAxis_planner_other (by decide), hmark]

theorem started_headMove (n : Node) (a : Axis) : (started n).headMove a = n.headMove a :=
  (headMove_congr (by simp [started]) a).trans (markHead_headMove false n a)

/-- A moved axis starts with its target at or ahead (R91). -/
theorem startedPlanner_remaining {n : Node} {a : Axis} {m : AxisMove} (h : n.headMove a = some m) :
    0 ≤ (n.startedPlanner a).remaining := by
  unfold startedPlanner Planner.remaining signOf
  rw [h]
  dsimp only
  split
  next hle => simp only [decide_eq_true_eq] at hle; omega
  next hle => simp only [decide_eq_true_eq, not_le] at hle; omega

/-- The position an axis is started at, limited to the soft limits (R110). -/
def startSetpoint (n : Node) (a : Axis) : Int :=
  limitTo (Live.softLimits n.live a)
    (match a with | .ring => n.drive.ring.raw + Live.homeOffset n.live | .tilt => n.drive.tilt.raw) * 65536

/-- The planner of an axis as a VALID read starts it (R110). -/
def startingPlanner (n : Node) (a : Axis) : Planner :=
  { setpoint := n.startSetpoint a, velocity := 0, target := n.startSetpoint a, up := true, pinch := 0 }

theorem configured_planner (n : Node) (a : Axis) : n.configured.planner a = n.startingPlanner a := by
  have hserv (m : Node) : (setPhase .idle m).inService = true := by simp [inService, Phase.inService]
  cases a <;> simp [configured, refreshAttention, startSupervision, startPlanner, startingPlanner, startSetpoint, planner,
    setPlanner, measured, homeOffset, hserv, live]

/-- Neither the halt for kept faults nor ESTOP moves a started planner (R110). -/
theorem startConfigured_planner (n : Node) (a : Axis) : (startConfigured n).planner a = n.startingPlanner a := by
  have hkept : (haltForKeptFaults n.configured).planner a = n.startingPlanner a := by
    rw [← configured_planner]
    unfold haltForKeptFaults
    split
    · rfl
    · cases a <;> simp [planner]
  rw [startConfigured_eq]
  unfold raiseIf
  split
  · rcases raise_planner .estop (haltForKeptFaults n.configured) a with h | h
    · rw [h, hkept]
    · rw [h, hkept]; rfl
  · exact hkept

/-! ### The course law -/

theorem CourseLaw.ahead_of_velocity {n : Node} (h : n.CourseLaw) {a : Axis} (hv : 0 < (n.planner a).velocity) :
    0 ≤ (n.planner a).remaining := h.2.2 a (.inl hv)

theorem CourseLaw.ahead_of_moved {n : Node} (h : n.CourseLaw) {a : Axis} (hp : n.cue.phase.inMotion = true)
    (hm : ∃ m, n.headMove a = some m) (hr : a = .ring → n.ringMode = .driven) : 0 ≤ (n.planner a).remaining :=
  h.2.2 a (.inr ⟨hp, hm, hr⟩)

/-- A change that moves no target relative to its setpoint, raises no velocity memory, and comes to a phase of motion from one
only with the same head, keeps the course law. -/
theorem CourseLaw.of_le {n m : Node} (h : n.CourseLaw)
    (hqueue : m.cue.phase.drawing = true ∨ m.cue.phase = .done → m.cue.queue ≠ [])
    (hmode : m.ringMode = n.ringMode)
    (hplan : ∀ a, (m.planner a).remaining = (n.planner a).remaining ∧ (m.planner a).velocity ≤ (n.planner a).velocity)
    (hmotion : m.cue.phase.inMotion = true → n.cue.phase.inMotion = true ∧ ∀ a, m.headMove a = n.headMove a) :
    m.CourseLaw := by
  obtain ⟨-, htowed, hahead⟩ := h
  refine ⟨hqueue, fun ht => ?_, fun a ha => ?_⟩
  · exact Nat.le_zero.1 ((hplan .ring).2.trans_eq (htowed (hmode ▸ ht)))
  · rw [(hplan a).1]
    rcases ha with hv | ⟨hp, hm, hr⟩
    · exact hahead a (.inl (hv.trans_le (hplan a).2))
    · obtain ⟨hp', hhead⟩ := hmotion hp
      exact hahead a (.inr ⟨hp', hhead a ▸ hm, fun e => hmode ▸ hr e⟩)

theorem planner_eq {n m : Node} (hr : m.ring = n.ring) (ht : m.tilt = n.tilt) (a : Axis) : m.planner a = n.planner a := by
  cases a
  · exact hr
  · exact ht

/-- The planners as they were, in a phase out of motion. -/
theorem CourseLaw.of_rest {n m : Node} (h : n.CourseLaw) (hp : m.cue.phase.drawing = false) (hd : m.cue.phase ≠ .done)
    (hmode : m.ringMode = n.ringMode) (hring : m.ring = n.ring) (htilt : m.tilt = n.tilt) : m.CourseLaw := by
  refine h.of_le ?_ hmode (fun a => ?_) (fun hm => ?_)
  · rintro (h | h)
    · rw [hp] at h; cases h
    · exact absurd h hd
  · rw [planner_eq hring htilt a]; exact ⟨rfl, Nat.le_refl _⟩
  · exact absurd (hp.symm.trans (Phase.drawing_of_inMotion hm)) (by decide)

/-- The planners and the queue as they were, from a phase of motion. -/
theorem CourseLaw.of_motion {n m : Node} (h : n.CourseLaw) (hp : n.cue.phase.inMotion = true)
    (hq : m.cue.queue = n.cue.queue) (hmode : m.ringMode = n.ringMode) (hring : m.ring = n.ring) (htilt : m.tilt = n.tilt) :
    m.CourseLaw := by
  refine h.of_le (fun _ => hq ▸ h.1 (.inl (Phase.drawing_of_inMotion hp))) hmode (fun a => ?_) (fun _ => ⟨hp, headMove_congr hq⟩)
  rw [planner_eq hring htilt a]; exact ⟨rfl, Nat.le_refl _⟩

/-- A part at rest with no velocity memory. -/
theorem courseLaw_of_still {n : Node} (hp : n.cue.phase.drawing = false) (hd : n.cue.phase ≠ .done)
    (hv : ∀ a, (n.planner a).velocity = 0) : n.CourseLaw := by
  refine ⟨?_, fun _ => hv .ring, fun a ha => ?_⟩
  · rintro (h | h)
    · rw [hp] at h; cases h
    · exact absurd h hd
  · rcases ha with h | ⟨h, -⟩
    · rw [hv a] at h; exact absurd h (by decide)
    · exact absurd (hp.symm.trans (Phase.drawing_of_inMotion h)) (by decide)

/-- A planner's tick keeps its target at or ahead (R95, R97, R101, R103). -/
theorem PlansTo.remaining_nonneg {n : Node} {a : Axis} {p : Planner} (h : PlansTo a n p) (hc : n.CourseLaw) (hf : n.FaultLaw)
    (hp : 0 < p.velocity ∨ n.cue.phase.inMotion = true ∧ (∃ m, n.headMove a = some m) ∧ (a = .ring → n.ringMode = .driven)) :
    0 ≤ p.remaining := by
  cases h with
  | unplanned => exact hc.2.2 a hp
  | follows hs hfol =>
    rcases hp with hp | ⟨hmot, -, hr⟩
    · exact absurd hp (by simp [Planner.follow])
    · exfalso
      have hzero := hf.faults_eq_zero ⟨?_, ?_, ?_⟩
      · unfold Node.follows at hfol
        rw [Bool.or_eq_true, Bool.and_eq_true, beq_iff_eq, beq_iff_eq] at hfol
        rcases hfol with he | ⟨ha, ht⟩
        · unfold estopLatched at he
          rw [hzero] at he
          exact absurd he (by decide)
        · rw [hr ha] at ht; cases ht
      all_goals rintro e; rw [e] at hmot; cases hmot
  | profile pinch hfol hphase hunder =>
    have hrem := hc.ahead_of_moved (by rw [hphase]; rfl) (underway_headMove hunder) (driven_of_follows hfol)
    exact Planner.commit_remaining (p := n.planner a) (Planner.clamp_ahead hrem (Planner.candidate_ahead hrem _).1 _ _).1
  | controlled hfol hphase hunder =>
    have hrem := hc.ahead_of_moved (by rcases hphase with e | e <;> rw [e] <;> rfl) (underway_headMove hunder)
      (driven_of_follows hfol)
    exact Planner.commit_remaining (p := n.planner a) (Planner.clamp_ahead hrem (Planner.candidate_ahead hrem _).1 _ _).1
  | emergency hfol hphase hv =>
    have hrem := hc.ahead_of_velocity hv
    exact Planner.commit_remaining (p := n.planner a) (Planner.candidate_ahead hrem _).1
  | held =>
    rcases hp with hp | hp
    · exact absurd hp (by simp [Planner.hold])
    · exact hc.2.2 a (.inr hp)

theorem courseLaw_planAxis {n : Node} (a : Axis) (hf : n.FaultLaw) (hc : n.CourseLaw) : (planAxis a n).CourseLaw := by
  obtain ⟨p, d, he, hp⟩ := planAxis_eq a n
  rw [he]
  have hplanner (b : Axis) : ({ n.setPlanner a p with due := d } : Node).planner b = (n.setPlanner a p).planner b := by
    cases b <;> rfl
  have hhead (b : Axis) : ({ n.setPlanner a p with due := d } : Node).headMove b = n.headMove b :=
    headMove_congr (by simp) b
  refine ⟨by simpa using hc.1, fun ht => ?_, fun b hb => ?_⟩
  · simp only [setPlanner_ringMode] at ht
    cases a with
    | tilt => exact hc.2.1 ht
    | ring =>
      have hdriven {q : Prop} (hfol : n.follows .ring = false) : q := by
        rw [driven_of_follows hfol rfl] at ht; cases ht
      show p.velocity = 0
      cases hp with
      | unplanned => exact hc.2.1 ht
      | follows => rfl
      | held => rfl
      | profile _ hfol => exact hdriven hfol
      | controlled hfol => exact hdriven hfol
      | emergency hfol => exact hdriven hfol
  · rw [hplanner] at hb ⊢
    rw [hhead] at hb
    simp only [setPlanner_cue, setPlanner_ringMode] at hb
    by_cases hab : b = a
    · subst hab
      rw [setPlanner_same] at hb ⊢
      exact hp.remaining_nonneg hc hf hb
    · rw [setPlanner_other hab] at hb ⊢
      exact hc.2.2 b hb

theorem enterSettling_planner (n : Node) (a : Axis) :
    (enterSettling n).planner a = n.planner a ∨ (enterSettling n).planner a = { n.planner a with velocity := 0 } := by
  have hrest (b c : Axis) (m : Node) :
      (restAxis b m).planner c = m.planner c ∨ (restAxis b m).planner c = { m.planner c with velocity := 0 } := by
    unfold restAxis
    split
    · by_cases hbc : c = b
      · subst hbc; exact .inr (setPlanner_same _ _ _)
      · exact .inl (setPlanner_other hbc _ _)
    · exact .inl rfl
  unfold enterSettling
  dsimp only
  set z : Node := { dropDue .settle (setPhase .settling n) with
    cue := { (dropDue .settle (setPhase .settling n)).cue with settleCount := 0 } } with hz
  have hzp : z.planner a = n.planner a := by cases a <;> simp [hz, planner]
  rcases hrest .tilt a (restAxis .ring z) with h | h <;> rcases hrest .ring a z with g | g <;> rw [h, g, hzp] <;> simp

theorem enterSettling_queue (n : Node) : (enterSettling n).cue.queue = n.cue.queue := by
  simp [enterSettling]

theorem haltedQueue_cue (n : Node) : (enterHalted n).cue.queue = n.haltedQueue := (enterHalted_enters n).2.1

/-- Every act keeps the course law, with the place of the faults. -/
theorem courseLaw_closed : CourseClosed (fun n => n.FaultLaw ∧ n.CourseLaw) where
  keeps := fun {n m} hk ⟨hf, hc⟩ => by
    refine ⟨faultLaw_closed.keeps hk hf, hc.of_le ?_ hk.ringMode (fun a => ?_) ?_⟩
    · rw [hk.phase, hk.queue]; exact hc.1
    · have : (m.planner a).course = (n.planner a).course := by
        cases a
        · exact hk.ring
        · exact hk.tilt
      obtain ⟨-, -, hv, hr⟩ := Planner.course_eq this
      exact ⟨hr, hv.le⟩
    · rw [hk.phase]; exact fun h => ⟨h, headMove_congr hk.queue⟩
  raise k n := fun ⟨hf, hc⟩ => by
    refine ⟨faultLaw_closed.raise k n hf, ?_⟩
    rcases raise_cases k n with he | ⟨-, -, hp⟩
    · rw [he]; exact hc
    · refine hc.of_le ?_ (raise_ringMode k n) (fun a => ?_) ?_
      · rw [hp]; exact fun h => absurd h (by decide)
      · rcases raise_planner k n a with e | e <;> rw [e]
        · exact ⟨rfl, Nat.le_refl _⟩
        · exact ⟨rfl, Nat.zero_le _⟩
      · rw [hp]; exact nofun
  halt n hs hp := fun ⟨hf, hc⟩ => ⟨faultLaw_closed.halt n hs hp hf,
    hc.of_rest (by rw [enterHalted_cue_phase]; rfl) (by rw [enterHalted_cue_phase]; decide) (by simp) (by simp) (by simp)⟩
  arm n hp hq hf0 := fun ⟨hf, hc⟩ => by
    refine ⟨faultLaw_closed.arm n hp hq hf0 hf, hc.of_le (fun _ => by simpa using hq) (by simp) (fun a => ?_) ?_⟩
    · rw [planner_eq (enterArmed_ring n) (enterArmed_tilt n) a]; exact ⟨rfl, Nat.le_refl _⟩
    · rw [enterArmed_cue_phase]; exact nofun
  fail r n hp := fun ⟨hf, hc⟩ => ⟨faultLaw_closed.fail r n hp hf,
    hc.of_rest (by rw [failHead_cue_phase]; rfl) (by rw [failHead_cue_phase]; decide) (by simp) (by simp) (by simp)⟩
  start n hp harmed := fun ⟨hf, hc⟩ => by
    refine ⟨faultLaw_closed.start n hp harmed hf, ?_⟩
    have hstarted : n.started.CourseLaw := by
      have hq : n.cue.queue ≠ [] := hc.1 (.inl (by rw [hp]; rfl))
      refine ⟨fun _ => by simpa [started] using (markHead_queue_ne false n).2 hq, fun ht => ?_, fun a ha => ?_⟩
      · have hv := hc.2.1 (by simpa [started] using ht)
        have := started_planner n .ring
        unfold startedPlanner at this
        split at this
        · exact (congrArg Planner.velocity this).trans hv
        · exact congrArg Planner.velocity this
      · rw [started_planner, started_headMove] at *
        cases hm : n.headMove a with
        | some m => exact startedPlanner_remaining hm
        | none =>
          simp only [startedPlanner, hm] at ha ⊢
          rcases ha with hv | ⟨-, ⟨m, hm'⟩, -⟩
          · exact hc.ahead_of_velocity hv
          · cases hm'
    rcases enterMoving_cases n with he | hp'
    · rw [he]; exact hstarted
    · refine hstarted.of_le ?_ ?_ (fun a => ?_) ?_
      · rw [hp']; exact fun h => absurd h (by decide)
      · simp [started]
      · show ((raiseIf _ _ n.started).planner a).remaining = _ ∧ ((raiseIf _ _ n.started).planner a).velocity ≤ _
        unfold raiseIf
        split
        · rcases raise_planner .tow n.started a with e | e <;> rw [e]
          · exact ⟨rfl, Nat.le_refl _⟩
          · exact ⟨rfl, Nat.zero_le _⟩
        · exact ⟨rfl, Nat.le_refl _⟩
      · rw [hp']; exact nofun
  hold n hp := fun ⟨hf, hc⟩ => ⟨faultLaw_closed.hold n hp hf,
    hc.of_motion (by rw [hp]; rfl) (by simp) (by simp) (by simp) (by simp)⟩
  arrive n hp := fun ⟨hf, hc⟩ => by
    refine ⟨faultLaw_closed.arrive n hp hf, hc.of_le (fun _ => ?_) (by simp) (fun a => ?_)
      (fun _ => ⟨by rw [hp]; rfl, headMove_congr (enterSettling_queue n)⟩)⟩
    · rw [enterSettling_queue]; exact hc.1 (.inl (by rw [hp]; rfl))
    · rcases enterSettling_planner n a with e | e <;> rw [e]
      · exact ⟨rfl, Nat.le_refl _⟩
      · exact ⟨rfl, Nat.zero_le _⟩
  resume n hp := fun ⟨hf, hc⟩ => ⟨faultLaw_closed.resume n hp hf,
    hc.of_motion (by rw [hp]; rfl) (by simp) (by simp) (by simp) (by simp)⟩
  stop n hp := fun ⟨hf, hc⟩ => ⟨faultLaw_closed.stop n hp hf,
    hc.of_rest (by simp [Phase.drawing, Phase.inMotion]) (by simp) (by simp) (by simp) (by simp)⟩
  retire n hp := fun ⟨hf, hc⟩ => ⟨faultLaw_closed.retire n hp hf,
    hc.of_rest (by simp [Phase.drawing, Phase.inMotion]) (by simp) (by simp) (by simp) (by simp)⟩
  settle n hp := fun ⟨hf, hc⟩ => ⟨faultLaw_closed.settle n hp hf,
    hc.of_motion (by rw [hp]; rfl) (by simp) (by simp) (by simp) (by simp)⟩
  plan a n hs := fun ⟨hf, hc⟩ => ⟨faultLaw_closed.plan a n hs hf, courseLaw_planAxis a hf hc⟩
  tow n := fun ⟨hf, hc⟩ => by
    refine ⟨faultLaw_closed.tow n hf, by simpa [enterTowed] using hc.1, fun _ => by simp [enterTowed], fun a ha => ?_⟩
    cases a with
    | ring =>
      rcases ha with hv | ⟨-, -, hr⟩
      · simp [enterTowed, planner] at hv
      · simp [enterTowed] at hr
    | tilt =>
      have hhead : (enterTowed n).headMove .tilt = n.headMove .tilt := headMove_congr (by simp [enterTowed]) _
      rw [hhead] at ha
      simpa [enterTowed, planner] using hc.2.2 .tilt (by simpa [enterTowed, planner] using ha)
  clearFaults n := fun ⟨hf, hc⟩ => by
    refine ⟨faultLaw_closed.clearFaults n hf, ?_⟩
    have hkeep : (Node.clearFaults n).ringMode = n.ringMode ∧ (Node.clearFaults n).ring = n.ring
        ∧ (Node.clearFaults n).tilt = n.tilt := by
      unfold Node.clearFaults
      split
      · dsimp only
        split <;> split <;> simp
      · exact ⟨rfl, rfl, rfl⟩
    rcases clearFaults_cases n with he | ⟨hp, -, -, hcue⟩
    · rw [he]; exact hc
    · have hp' : (Node.clearFaults n).cue.phase = .halted ∨ (Node.clearFaults n).cue.phase = .idle := by
        rcases hcue with e | ⟨e, -⟩
        · exact .inl (by rw [e]; exact hp)
        · exact .inr e
      refine hc.of_rest ?_ ?_ hkeep.1 hkeep.2.1 hkeep.2.2 <;> rcases hp' with e | e <;> rw [e] <;> decide
  clearTow n := fun ⟨hf, hc⟩ => by
    refine ⟨faultLaw_closed.clearTow n hf, ?_⟩
    unfold Node.clearTow
    split
    next hg =>
      have hv := hc.2.1 hg.2.1
      refine ⟨by simpa using hc.1, fun ht => by simp at ht, fun a ha => ?_⟩
      rw [headMove_congr (n := n) (by simp)] at ha
      cases a with
      | tilt => simpa [planner] using hc.2.2 .tilt (by simpa [planner] using ha)
      | ring =>
        simp only [planner, note_ring, note_cue, hv, Nat.lt_irrefl, false_or] at ha
        have hmoves : (n.cue.phase.inMotion && n.headMoves .ring) = true := by
          rw [Bool.and_eq_true]; exact ⟨ha.1, (headMoves_iff n .ring).2 ha.2.1⟩
        simp only [planner, note_ring, hmoves, if_true, Planner.remaining, signOf]
        split
        next hle => simp only [decide_eq_true_eq] at hle; omega
        next hle => simp only [decide_eq_true_eq, not_le] at hle; omega
    · exact hc
  join r n _ _ _ := fun ⟨hf, hc⟩ => by
    refine ⟨hf, hc.of_le (fun _ => by simp) rfl (fun a => ⟨rfl, Nat.le_refl _⟩) (fun hm => ⟨hm, fun a => ?_⟩)⟩
    have hq : n.cue.queue ≠ [] := hc.1 (.inl (Phase.drawing_of_inMotion hm))
    obtain ⟨c, rest, e⟩ := List.exists_cons_of_ne_nil hq
    cases a <;> simp [headMove, headCue, e]
  cancel id n := fun ⟨hf, hc⟩ => by
    refine ⟨faultLaw_closed.cancel id n hf, ?_⟩
    rcases cancelCue_cases id n with he | he | ⟨c, rest, hq, -, -, he⟩ <;> rw [he]
    · exact hc
    · rcases cancelHead_cases n with he | ⟨he, hp⟩ | ⟨he, hp⟩ | ⟨he, hp⟩ <;> rw [he]
      · exact hc
      · refine hc.of_rest ?_ ?_ (by simp) (by simp) (by simp) <;>
          rw [retireHead_cue_phase] <;> rcases hp with e | e <;> rw [e] <;> decide
      · exact hc.of_rest (by simp [Phase.drawing, Phase.inMotion]) (by simp) (by simp) (by simp) (by simp)
      · exact hc.of_motion (by rcases hp with e | e <;> rw [e] <;> rfl) (by simp) (by simp) (by simp) (by simp)
    · refine hc.of_le (fun _ => by simp) (by simp) (fun a => ?_) (fun hm => ⟨hm, fun a => ?_⟩)
      · rw [planner_eq (n := n) (by simp) (by simp) a]; exact ⟨rfl, Nat.le_refl _⟩
      · cases a <;> simp [headMove, headCue, hq]
  reset n := fun ⟨hf, _⟩ => ⟨faultLaw_closed.reset n hf, courseLaw_of_still rfl (by simp) (fun a => by cases a <;> rfl)⟩
  powerOn s p := ⟨faultLaw_closed.powerOn s p, courseLaw_of_still rfl nofun (fun a => by cases a <;> rfl)⟩
  read bytes n := fun ⟨hf, hc⟩ => by
    refine ⟨faultLaw_closed.read bytes n hf, ?_⟩
    rcases configReadComplete_cases bytes n with he | ⟨-, ⟨-, he⟩ | ⟨-, he⟩⟩ <;> rw [he]
    · exact hc
    · have hphase : (startConfigured (readIn bytes n)).cue.phase = .idle
          ∨ (startConfigured (readIn bytes n)).cue.phase = .halted := by
        rcases startConfigured_cases (readIn bytes n) with ⟨-, e⟩ | e
        · exact .inl (by rw [e, configured_cue_phase])
        · exact .inr e
      refine courseLaw_of_still ?_ ?_ (fun a => by rw [startConfigured_planner]; rfl) <;>
        rcases hphase with e | e <;> rw [e] <;> decide
    · have hread : (readIn bytes n).CourseLaw := hc
      exact hread.of_rest (by rw [startUnconfigured_cue_phase]; rfl) (by rw [startUnconfigured_cue_phase]; decide)
        (by simp [startUnconfigured, refreshAttention]) (by simp [startUnconfigured, refreshAttention])
        (by simp [startUnconfigured, refreshAttention])

end Node

/-- Settles O58, by induction over the acts of a step: no commit passes its target, and each entry to a move fixes the direction
for its target. -/
theorem setpointsNeverPassTargets : Obligations.SetpointsNeverPassTargets := by
  intro c s t hf hc ht
  refine Node.courseLaw_closed.exec_all (fun a v n ⟨hf, hc⟩ => ?_) ht ⟨hf, hc⟩
  obtain ⟨l, e⟩ := Node.alterLiveCopy_eq a v n
  rw [e]
  exact ⟨hf, hc⟩

end Sys2Proof.Machine
end

section
/-! The limit law (R67, R70, R108, R109), and the step of a setpoint in one control tick. -/

namespace Sys2Proof.Machine

/-! ### The ranges of the configuration (section 10.1) -/

theorem field_range_of_good {l : List Byte} (h : fieldsGood l = true) {off width low high : Nat}
    (hf : (off, width, low, high) ∈ rangeFields) : low ≤ field l off width ∧ field l off width ≤ high := by
  unfold fieldsGood at h
  simp only [Bool.and_eq_true] at h
  obtain ⟨⟨⟨⟨⟨⟨⟨⟨⟨⟨⟨⟨hr, -⟩, -⟩, -⟩, -⟩, -⟩, -⟩, -⟩, -⟩, -⟩, -⟩, -⟩, -⟩ := h
  simpa using List.all_eq_true.1 hr _ hf

theorem ringMin_lt_ringMax_of_good {l : List Byte} (h : fieldsGood l = true) : Live.ringMin l < Live.ringMax l := by
  unfold fieldsGood at h
  simp only [Bool.and_eq_true, decide_eq_true_eq] at h
  obtain ⟨⟨-, hr⟩, -⟩ := h
  exact hr

/-- The soft limits form an interval (R108, R170). -/
theorem softLimits_le_of_good {l : List Byte} (h : fieldsGood l = true) (a : Axis) :
    (Live.softLimits l a).1 ≤ (Live.softLimits l a).2 := by
  cases a
  · exact (ringMin_lt_ringMax_of_good h).le
  · exact Int.natCast_nonneg _

/-- Every configured acceleration step lies within the cruise step (R109, section 10.1). -/
theorem accelStep_le_of_good {l : List Byte} (h : fieldsGood l = true) (a : Axis) :
    accelStep (Live.accel l a) ≤ speedStep (Live.cruiseMax l a) := by
  unfold accelStep speedStep
  cases a
  · obtain ⟨-, hacc⟩ := field_range_of_good h (off := 40) (width := 2) (low := 10) (high := 1000) (by decide)
    obtain ⟨hcru, -⟩ := field_range_of_good h (off := 38) (width := 2) (low := 50) (high := 1000) (by decide)
    simp only [Live.accel, Live.cruiseMax]
    omega
  · obtain ⟨-, hacc⟩ := field_range_of_good h (off := 46) (width := 2) (low := 5) (high := 500) (by decide)
    obtain ⟨hcru, -⟩ := field_range_of_good h (off := 44) (width := 2) (low := 5) (high := 200) (by decide)
    simp only [Live.accel, Live.cruiseMax]
    omega

theorem limitTo_within {b : Int × Int} (h : b.1 ≤ b.2) (x : Int) : b.1 ≤ limitTo b x ∧ limitTo b x ≤ b.2 := by
  unfold limitTo
  split
  · exact ⟨Int.le_refl _, h⟩
  · split
    · exact ⟨h, Int.le_refl _⟩
    · omega

/-- The cap lies within the cruise step (R93, R109). -/
theorem capOf_le {cruise scale derate : Nat} (hs : scale ≤ 256) (hd : derate ≤ 256) : capOf cruise scale derate ≤ cruise := by
  unfold capOf
  have h1 : cruise * scale / 256 ≤ cruise := Nat.div_le_of_le_mul (by nlinarith)
  have h2 : cruise * scale / 256 * derate / 256 ≤ cruise * scale / 256 :=
    Nat.div_le_of_le_mul (by rw [Nat.mul_comm]; exact Nat.mul_le_mul_right _ hd)
  exact h2.trans h1

theorem profileVelocity_le {v cap a k : Nat} {r : Int} (hv : v ≤ k) (hc : cap ≤ k) (ha : a ≤ k) :
    profileVelocity v cap a r ≤ k := by
  unfold profileVelocity
  split
  · exact max_le (by omega) hc
  · split
    · exact max_le (by omega) ha
    · exact (min_le_right _ _).trans hc

/-- What a cue asks of an axis. -/
def Cue.move (c : Cue) : Axis → Option AxisMove
  | .ring => c.ring
  | .tilt => c.tilt

/-- The targets and speeds of a cue lie within the limits of an axis (R67, R70). -/
def Cue.Within (live : List Byte) (a : Axis) (c : Cue) : Prop :=
  ∀ m, c.move a = some m →
    (Live.softLimits live a).1 ≤ m.target ∧ m.target ≤ (Live.softLimits live a).2 ∧ m.speed ≤ Live.cruiseMax live a

/-- A planner lies within the limits of its axis (R108, R109). -/
structure Planner.Within (live : List Byte) (a : Axis) (p : Planner) : Prop where
  low_setpoint : (Live.softLimits live a).1 * 65536 ≤ p.setpoint
  setpoint_high : p.setpoint ≤ (Live.softLimits live a).2 * 65536
  low_target : (Live.softLimits live a).1 * 65536 ≤ p.target
  target_high : p.target ≤ (Live.softLimits live a).2 * 65536
  velocity : p.velocity ≤ speedStep (Live.cruiseMax live a)

/-- What lies from the setpoint to the target lies within the limits that they lie in. -/
theorem Planner.Within.commit {live : List Byte} {a : Axis} {p : Planner} (h : p.Within live a) {c : Int} (hc : p.Ahead c)
    (hv : signOf p.up * (c - p.setpoint) ≤ speedStep (Live.cruiseMax live a)) : (p.commit c).Within live a := by
  obtain ⟨h1, h2, h3, h4, -⟩ := h
  have hvel := Planner.commit_velocity hc
  unfold Planner.Ahead at hc
  have hvle : (p.commit c).velocity ≤ speedStep (Live.cruiseMax live a) := by omega
  refine ⟨?_, ?_, h3, h4, hvle⟩ <;> show _ ≤ _ <;> simp only [Planner.commit] <;>
    rcases Planner.signOf_cases p.up with hd | hd <;> rw [hd] at hc <;> omega

namespace Node

theorem limitLaw_iff (n : Node) : n.LimitLaw ↔
    (n.inService = false → n.cue.queue = []) ∧ (n.cue.phase = .starting → n.rx.queue = [])
      ∧ (n.inService = true → fieldsGood n.cfg.live = true
          ∧ ∀ a, (n.planner a).Within n.cfg.live a ∧ ∀ c ∈ n.cue.queue, c.Within n.cfg.live a) := by
  unfold LimitLaw
  refine and_congr_right fun _ => and_congr_right fun _ => imp_congr_right fun _ => and_congr_right fun _ =>
    forall_congr' fun a => ?_
  constructor
  · rintro ⟨h1, h2, h3, h4, h5, h6⟩
    exact ⟨⟨h1, h2, h3, h4, h5⟩, by cases a <;> exact h6⟩
  · rintro ⟨⟨h1, h2, h3, h4, h5⟩, h6⟩
    exact ⟨h1, h2, h3, h4, h5, by cases a <;> exact h6⟩

theorem LimitLaw.good {n : Node} (h : n.LimitLaw) (hs : n.inService = true) : fieldsGood n.cfg.live = true :=
  (((limitLaw_iff n).1 h).2.2 hs).1

theorem LimitLaw.planner_within {n : Node} (h : n.LimitLaw) (hs : n.inService = true) (a : Axis) :
    (n.planner a).Within n.cfg.live a := ((((limitLaw_iff n).1 h).2.2 hs).2 a).1

theorem LimitLaw.cue_within {n : Node} (h : n.LimitLaw) (hs : n.inService = true) {c : Cue} (hc : c ∈ n.cue.queue) (a : Axis) :
    c.Within n.cfg.live a := ((((limitLaw_iff n).1 h).2.2 hs).2 a).2 c hc

theorem LimitLaw.queue_nil {n : Node} (h : n.LimitLaw) (hs : n.inService = false) : n.cue.queue = [] := h.1 hs

/-- The head's move lies within the limits. -/
theorem LimitLaw.headMove_within {n : Node} (h : n.LimitLaw) (hs : n.inService = true) {a : Axis} {m : AxisMove}
    (hm : n.headMove a = some m) :
    (Live.softLimits n.cfg.live a).1 ≤ m.target ∧ m.target ≤ (Live.softLimits n.cfg.live a).2
      ∧ m.speed ≤ Live.cruiseMax n.cfg.live a := by
  unfold headMove headCue at hm
  cases hq : n.cue.queue with
  | nil => simp [hq] at hm
  | cons c rest =>
    refine h.cue_within hs (c := c) (by simp [hq]) a m ?_
    cases a <;> simpa [hq, Cue.move] using hm

/-- A part in service stays within its limits when its cues ask no more, its live copy stands, and its planners are no
faster. -/
theorem LimitLaw.of_served {n m : Node} (h : n.LimitLaw) (hn : n.inService = true) (hm : m.inService = true)
    (hqueue : ∀ c ∈ m.cue.queue, ∃ d ∈ n.cue.queue, ∀ a, c.move a = d.move a) (hlive : m.cfg.live = n.cfg.live)
    (hplan : ∀ a, (m.planner a).setpoint = (n.planner a).setpoint ∧ (m.planner a).target = (n.planner a).target
      ∧ (m.planner a).velocity ≤ (n.planner a).velocity) : m.LimitLaw := by
  refine (limitLaw_iff m).2 ⟨fun h => ?_, fun h => ?_, fun _ => ?_⟩
  · rw [hm] at h; cases h
  · unfold inService at hm; rw [h] at hm; cases hm
  · rw [hlive]
    refine ⟨h.good hn, fun a => ⟨?_, fun c hc => ?_⟩⟩
    · obtain ⟨hs, ht, hv⟩ := hplan a
      obtain ⟨h1, h2, h3, h4, h5⟩ := h.planner_within hn a
      exact ⟨hs ▸ h1, hs ▸ h2, ht ▸ h3, ht ▸ h4, hv.trans h5⟩
    · obtain ⟨d, hd, hmove⟩ := hqueue c hc
      intro x hx
      exact h.cue_within hn hd a x (hmove a ▸ hx)

/-- The planners untouched. -/
theorem planners_same {n m : Node} (hr : m.ring = n.ring) (ht : m.tilt = n.tilt) (a : Axis) :
    (m.planner a).setpoint = (n.planner a).setpoint ∧ (m.planner a).target = (n.planner a).target
      ∧ (m.planner a).velocity ≤ (n.planner a).velocity := by
  rw [planner_eq hr ht a]
  exact ⟨rfl, rfl, Nat.le_refl _⟩

theorem sub_of_subset {l k : List Cue} (h : l ⊆ k) : ∀ c ∈ l, ∃ d ∈ k, ∀ a, c.move a = d.move a :=
  fun c hc => ⟨c, h hc, fun _ => rfl⟩

/-- The queue of a halted wagon asks what the queue before asked (R85, R118). -/
theorem haltedQueue_sub (n : Node) : ∀ c ∈ n.haltedQueue, ∃ d ∈ n.cue.queue, ∀ a, c.move a = d.move a := by
  unfold haltedQueue
  split
  · exact sub_of_subset (List.tail_subset _)
  · cases hq : n.cue.queue with
    | nil => simp
    | cons c rest =>
      intro d hd
      rcases List.mem_cons.1 hd with rfl | hd
      · exact ⟨c, by simp, fun a => by cases a <;> rfl⟩
      · exact ⟨d, by simp [hd], fun _ => rfl⟩

theorem markHead_sub (b : Bool) (n : Node) : ∀ c ∈ (markHead b n).cue.queue, ∃ d ∈ n.cue.queue, ∀ a, c.move a = d.move a := by
  unfold markHead
  cases hq : n.cue.queue with
  | nil => simp [hq]
  | cons c rest =>
    intro d hd
    rcases List.mem_cons.1 hd with rfl | hd
    · exact ⟨c, by simp, fun a => by cases a <;> rfl⟩
    · exact ⟨d, by simp [hd], fun _ => rfl⟩

theorem raise_queue (k : FaultKind) (n : Node) :
    (raise k n).cue.queue = n.cue.queue ∨ (raise k n).cue.queue = n.haltedQueue := by
  by_cases h : n.inService = false ∨ n.faults.has k = true
  · exact .inl (by rw [show raise k n = n from if_pos h])
  · simp only [not_or, Bool.not_eq_false, Bool.not_eq_true] at h
    obtain ⟨hc, -⟩ := latched_same k n
    rw [raise_eq h.1 h.2, requestHalt_cue_queue]
    split
    · exact .inl (by rw [hc])
    · refine .inr ((haltedQueue_cue _).trans ?_)
      unfold haltedQueue
      rw [hc]

theorem raise_sub (k : FaultKind) (n : Node) :
    ∀ c ∈ (raise k n).cue.queue, ∃ d ∈ n.cue.queue, ∀ a, c.move a = d.move a := by
  rcases raise_queue k n with h | h <;> rw [h]
  · exact sub_of_subset (List.Subset.refl _)
  · exact haltedQueue_sub n

theorem inService_of_phase {n : Node} (p : Phase) (h : n.cue.phase = p) (hp : p.inService = true) : n.inService = true := by
  unfold inService; rw [h]; exact hp

theorem raise_planners (k : FaultKind) (n : Node) (a : Axis) :
    ((raise k n).planner a).setpoint = (n.planner a).setpoint ∧ ((raise k n).planner a).target = (n.planner a).target
      ∧ ((raise k n).planner a).velocity ≤ (n.planner a).velocity := by
  rcases raise_planner k n a with e | e <;> rw [e]
  · exact ⟨rfl, rfl, Nat.le_refl _⟩
  · exact ⟨rfl, rfl, Nat.zero_le _⟩

theorem limitLaw_raise {k : FaultKind} {n : Node} (h : n.LimitLaw) : (raise k n).LimitLaw := by
  rcases raise_cases k n with he | ⟨hs, -, hp⟩
  · rw [he]; exact h
  · exact h.of_served hs (inService_of_phase _ hp rfl) (raise_sub k n) (by simp) (raise_planners k n)

/-! ### The planners -/

/-- Where an axis does not follow, its tick holds it, or commits a setpoint from here to the target, at most the cruise step
away (R95 to R103, R109). -/
theorem PlansTo.committed {n : Node} {a : Axis} {p : Planner} (h : PlansTo a n p) (hs : n.inService = true)
    (hfol : n.follows a = false) (hscale : n.supplyScale ≤ 256) (hc : n.CourseLaw) (hl : n.LimitLaw) :
    p = (n.planner a).hold ∨ ∃ c pinch, p = { (n.planner a).commit c with pinch } ∧ (n.planner a).Ahead c
      ∧ signOf (n.planner a).up * (c - (n.planner a).setpoint) ≤ speedStep (Live.cruiseMax n.cfg.live a) := by
  have hgood := hl.good hs
  have hvel := (hl.planner_within hs a).velocity
  cases h with
  | unplanned hs' => rw [hs] at hs'; cases hs'
  | follows _ hfol' => rw [hfol] at hfol'; cases hfol'
  | held => exact .inl rfl
  | profile pinch _ hphase hunder =>
    have hrem := hc.ahead_of_moved (by rw [hphase]; rfl) (underway_headMove hunder) (driven_of_follows hfol)
    have hcap : n.cap a ≤ speedStep (Live.cruiseMax n.cfg.live a) := by
      unfold cap
      obtain ⟨m, hm⟩ := underway_headMove hunder
      rw [hm]
      have hspeed : speedStep m.speed ≤ speedStep (Live.cruiseMax n.cfg.live a) := by
        unfold speedStep
        exact Nat.div_le_div_right (Nat.mul_le_mul_right _ (hl.headMove_within hs hm).2.2)
      have hderate : n.derate a ≤ 256 := by
        unfold derate
        split
        · split
          · exact Nat.le_refl _
          · exact (field_range_of_good hgood (off := 78) (width := 2) (low := 32) (high := 256) (by decide)).2
        · exact Nat.le_refl _
      exact (capOf_le hscale hderate).trans hspeed
    have hv : profileVelocity (n.planner a).velocity (n.cap a) (n.normalStep a) (n.planner a).remaining
        ≤ speedStep (Live.cruiseMax n.cfg.live a) := profileVelocity_le hvel hcap (accelStep_le_of_good hgood a)
    obtain ⟨hcand, hdist⟩ := Planner.candidate_ahead hrem
      (profileVelocity (n.planner a).velocity (n.cap a) (n.normalStep a) (n.planner a).remaining)
    obtain ⟨hclamp, hle⟩ := Planner.clamp_ahead hrem hcand (n.projections a) (Live.window n.live a)
    exact .inr ⟨_, pinch, rfl, hclamp, hle.trans (hdist.trans (by exact_mod_cast hv))⟩
  | controlled _ hphase hunder =>
    have hrem := hc.ahead_of_moved (by rcases hphase with e | e <;> rw [e] <;> rfl) (underway_headMove hunder)
      (driven_of_follows hfol)
    obtain ⟨hcand, hdist⟩ := Planner.candidate_ahead hrem ((n.planner a).velocity - n.normalStep a)
    obtain ⟨hclamp, hle⟩ := Planner.clamp_ahead hrem hcand (n.projections a) (Live.window n.live a)
    exact .inr ⟨_, 0, rfl, hclamp, hle.trans (hdist.trans (by exact_mod_cast (Nat.sub_le _ _).trans hvel))⟩
  | emergency _ hphase hv =>
    have hrem := hc.ahead_of_velocity hv
    obtain ⟨hcand, hdist⟩ := Planner.candidate_ahead hrem ((n.planner a).velocity - accelStep (Live.emerg n.live a))
    exact .inr ⟨_, 0, rfl, hcand, hdist.trans (by exact_mod_cast (Nat.sub_le _ _).trans hvel)⟩

/-- A planner's tick keeps the limits (R108, R109). -/
theorem PlansTo.within {n : Node} {a : Axis} {p : Planner} (h : PlansTo a n p) (hs : n.inService = true)
    (hscale : n.supplyScale ≤ 256) (hc : n.CourseLaw) (hl : n.LimitLaw) : p.Within n.cfg.live a := by
  have hw := hl.planner_within hs a
  cases hfol : n.follows a with
  | false =>
    rcases h.committed hs hfol hscale hc hl with rfl | ⟨c, pinch, rfl, hahead, hle⟩
    · exact ⟨hw.1, hw.2, hw.3, hw.4, Nat.zero_le _⟩
    · obtain ⟨h1, h2, h3, h4, h5⟩ := hw.commit hahead hle
      exact ⟨h1, h2, h3, h4, h5⟩
  | true =>
    cases h with
    | unplanned => exact hw
    | follows =>
      obtain ⟨h1, h2⟩ := limitTo_within (softLimits_le_of_good (hl.good hs) a) (n.measured a)
      exact ⟨Int.mul_le_mul_of_nonneg_right h1 (by decide), Int.mul_le_mul_of_nonneg_right h2 (by decide), hw.3, hw.4,
        Nat.zero_le _⟩
    | profile _ hf | controlled hf | emergency hf | held _ hf => rw [hfol] at hf; cases hf

theorem limitLaw_planAxis {n : Node} (a : Axis) (hscale : n.inService = true → n.supplyScale ≤ 256) (hc : n.CourseLaw)
    (hl : n.LimitLaw) : (planAxis a n).LimitLaw := by
  obtain ⟨p, d, he, hp⟩ := planAxis_eq a n
  rw [he]
  have hserv : ({ n.setPlanner a p with due := d } : Node).inService = n.inService := by simp [inService]
  refine (limitLaw_iff _).2 ⟨fun h => ?_, fun h => ?_, fun h => ?_⟩
  · simpa using hl.1 (hserv ▸ h)
  · simpa using hl.2.1 (by simpa using h)
  · have hs : n.inService = true := hserv ▸ h
    refine ⟨by simpa using hl.good hs, fun b => ⟨?_, fun c hcue => ?_⟩⟩
    · have hb : ({ n.setPlanner a p with due := d } : Node).planner b = (n.setPlanner a p).planner b := by cases b <;> rfl
      rw [hb]
      simp only [setPlanner_cfg]
      by_cases hab : b = a
      · subst hab
        rw [setPlanner_same]
        exact hp.within hs (hscale hs) hc hl
      · rw [setPlanner_other hab]
        exact hl.planner_within hs b
    · simpa using hl.cue_within hs (by simpa using hcue) b

/-! ### Taking a cue -/

theorem resolveSpeed_le (max sent : Nat) : resolveSpeed max sent ≤ max := by
  unfold resolveSpeed
  split
  · exact Nat.le_refl _
  · exact min_le_right _ _

/-- The target a record resolves is one of the values it carries (R68). -/
theorem tiltTargetFor_mem {r : CueRecord} {s t : Nat} (h : tiltTargetFor r s = some t) : t ∈ tiltValues r := by
  unfold tiltTargetFor at h
  unfold tiltValues
  cases hr : r.tilt with
  | none => simp [hr] at h
  | uniform v u => simp [hr] at h; simp [h]
  | list vs u =>
    simp only [hr] at h
    split at h
    · exact List.mem_of_getElem? h
    · exact List.mem_of_getLast? h

/-- An accepted cue asks for targets and speeds within the limits (R67, R70). -/
theorem entryOf_within {n : Node} {r : CueRecord} (h : n.outOfRange r = false) (a : Axis) :
    (n.entryOf r).Within n.cfg.live a := by
  unfold outOfRange at h
  rw [Bool.or_eq_false_iff] at h
  obtain ⟨hring, htilt⟩ := h
  intro m hm
  cases a with
  | ring =>
    simp only [Cue.move, entryOf, Option.map_eq_some_iff] at hm
    obtain ⟨⟨t, u⟩, ht, rfl⟩ := hm
    rw [ht] at hring
    simp only [Bool.or_eq_false_iff, decide_eq_false_iff_not, not_lt] at hring
    exact ⟨hring.1, hring.2, resolveSpeed_le _ _⟩
  | tilt =>
    simp only [Cue.move, entryOf, Option.map_eq_some_iff] at hm
    obtain ⟨t, ht, rfl⟩ := hm
    obtain ⟨v, hv, rfl⟩ : ∃ v, tiltTargetFor r n.station = some v ∧ (v : Int) = t := by
      cases hv : tiltTargetFor r n.station with
      | none => simp [hv] at ht
      | some v => exact ⟨v, rfl, by simpa [hv] using ht⟩
    have := List.any_eq_false.1 htilt v (tiltTargetFor_mem hv)
    simp only [decide_eq_true_eq, not_lt] at this
    exact ⟨Int.natCast_nonneg _, Int.ofNat_le.2 this, resolveSpeed_le _ _⟩

/-- A CUE accepted was judged in service, and in range (R66). -/
theorem served_of_accepted {n : Node} {r : CueRecord} (hstart : n.cue.phase ≠ .starting) (h : n.refusalOf r = none) :
    n.inService = true ∧ n.outOfRange r = false := by
  unfold refusalOf at h
  split at h
  · cases h
  next hp =>
    split at h
    · cases h
    split at h
    · cases h
    next hr =>
      refine ⟨?_, by simpa using hr⟩
      unfold inService
      cases hc : n.cue.phase <;> simp_all [Phase.inService]

/-! ### The start -/

theorem startConfigured_queue {n : Node} (h : n.cue.queue = []) : (startConfigured n).cue.queue = [] := by
  have hconf : n.configured.cue.queue = [] := by
    simp [configured, refreshAttention, startSupervision, startPlanner, h]
  have hkept : (haltForKeptFaults n.configured).cue.queue = [] := by
    unfold haltForKeptFaults
    split
    · exact hconf
    · show (enterHalted n.configured).cue.queue = []
      rw [haltedQueue_cue]
      simp [haltedQueue, hconf]
  rw [startConfigured_eq]
  unfold raiseIf
  split
  · rcases raise_queue .estop (haltForKeptFaults n.configured) with e | e <;> rw [e]
    · exact hkept
    · simp [haltedQueue, hkept]
  · exact hkept

theorem startConfigured_live (n : Node) : (startConfigured n).cfg.live = n.cfg.live := by
  have : (haltForKeptFaults n.configured).cfg = n.configured.cfg := by
    unfold haltForKeptFaults
    split
    · rfl
    · simp
  rw [startConfigured_eq, raiseIf_cfg, this]
  simp [configured, refreshAttention, startSupervision, startPlanner]

theorem readIn_live (bytes : List Byte) (n : Node) : (readIn bytes n).cfg.live = formLiveCopy bytes := by
  simp only [readIn]

/-- The ranges hold of a VALID read (R170). -/
theorem fieldsGood_of_valid {bytes : List Byte} {straps : BitVec 5} (h : judgeConfig bytes straps = .valid) :
    fieldsGood (formLiveCopy bytes) = true := by
  unfold judgeConfig at h
  dsimp only at h
  split at h
  · cases h
  split at h
  · cases h
  next hf => simpa using hf

theorem startConfigured_inService (n : Node) : (startConfigured n).inService = true := by
  rcases startConfigured_cases n with ⟨-, e⟩ | e
  · rw [e]; exact inService_of_phase _ (configured_cue_phase n) rfl
  · exact inService_of_phase _ e rfl

theorem limitLaw_startConfigured {n : Node} (hq : n.cue.queue = []) (hgood : fieldsGood n.cfg.live = true) :
    (startConfigured n).LimitLaw := by
  have hs := startConfigured_inService n
  refine (limitLaw_iff _).2 ⟨fun h => ?_, fun h => ?_, fun _ => ⟨?_, fun a => ⟨?_, fun c hc => ?_⟩⟩⟩
  · rw [hs] at h; cases h
  · unfold inService at hs; rw [h] at hs; cases hs
  · rw [startConfigured_live]; exact hgood
  · rw [startConfigured_live, startConfigured_planner]
    obtain ⟨h1, h2⟩ := limitTo_within (softLimits_le_of_good hgood a)
      (match a with | .ring => n.drive.ring.raw + Live.homeOffset n.live | .tilt => n.drive.tilt.raw)
    have h1' := Int.mul_le_mul_of_nonneg_right h1 (show (0 : Int) ≤ 65536 by decide)
    have h2' := Int.mul_le_mul_of_nonneg_right h2 (show (0 : Int) ≤ 65536 by decide)
    exact ⟨h1', h2', h1', h2', Nat.zero_le _⟩
  · rw [startConfigured_queue hq] at hc; cases hc

/-! ### The law -/

theorem limitLaw_out {n : Node} (hs : n.inService = false) (hq : n.cue.queue = [])
    (hx : n.cue.phase = .starting → n.rx.queue = []) : n.LimitLaw :=
  (limitLaw_iff n).2 ⟨fun _ => hq, hx, fun h => by rw [hs] at h; cases h⟩

/-- Every act keeps the limit law, with the place of the faults and the course. -/
theorem limitLaw_closed : CourseClosed (fun n => (n.FaultLaw ∧ n.CourseLaw) ∧ n.LimitLaw) where
  keeps := fun {n m} hk ⟨hp, hl⟩ => by
    refine ⟨courseLaw_closed.keeps hk hp, ?_⟩
    have hserv : m.inService = n.inService := by unfold inService; rw [hk.phase]
    cases hs : n.inService with
    | true =>
      refine hl.of_served hs (hserv.trans hs) (by rw [hk.queue]; exact sub_of_subset (List.Subset.refl _)) hk.live fun a => ?_
      have : (m.planner a).course = (n.planner a).course := by
        cases a
        · exact hk.ring
        · exact hk.tilt
      obtain ⟨h1, h2, h3, -⟩ := Planner.course_eq this
      exact ⟨h1, h2, h3.le⟩
    | false =>
      exact limitLaw_out (hserv.trans hs) (hk.queue.trans (hl.queue_nil hs))
        (fun h => hk.waits (hk.phase ▸ h) (hl.2.1 (hk.phase ▸ h)))
  raise k n := fun ⟨hp, hl⟩ => ⟨courseLaw_closed.raise k n hp, limitLaw_raise hl⟩
  halt n hs hph := fun ⟨hp, hl⟩ => ⟨courseLaw_closed.halt n hs hph hp,
    hl.of_served hs (inService_of_phase _ (enterHalted_cue_phase n) rfl) (by rw [haltedQueue_cue]; exact haltedQueue_sub n)
      (by simp) (planners_same (by simp) (by simp))⟩
  arm n hph hq hf := fun ⟨hp, hl⟩ => ⟨courseLaw_closed.arm n hph hq hf hp,
    hl.of_served (inService_of_phase _ hph rfl) (inService_of_phase _ (enterArmed_cue_phase n) rfl)
      (by rw [enterArmed_cue_queue]; exact sub_of_subset (List.Subset.refl _)) (by simp)
      (planners_same (by simp) (by simp))⟩
  fail r n hph := fun ⟨hp, hl⟩ => ⟨courseLaw_closed.fail r n hph hp,
    hl.of_served (by rcases hph with e | e <;> exact inService_of_phase _ e rfl)
      (inService_of_phase _ (failHead_cue_phase r n) rfl)
      (by rw [failHead_cue_queue]; exact sub_of_subset (List.tail_subset _)) (by simp) (planners_same (by simp) (by simp))⟩
  start n hph harmed := fun ⟨hp, hl⟩ => by
    refine ⟨courseLaw_closed.start n hph harmed hp, ?_⟩
    have hs : n.inService = true := inService_of_phase _ hph rfl
    have hstarted : n.started.LimitLaw := by
      have hss : n.started.inService = true := inService_of_phase _ (started_cue_phase n) rfl
      have hlive : n.started.cfg.live = n.cfg.live := by simp [started]
      refine (limitLaw_iff _).2 ⟨fun h => ?_, fun h => ?_, fun _ => ⟨hlive ▸ hl.good hs, fun a => ⟨?_, fun c hc => ?_⟩⟩⟩
      · rw [hss] at h; cases h
      · rw [started_cue_phase] at h; cases h
      · rw [hlive, started_planner]
        obtain ⟨h1, h2, h3, h4, h5⟩ := hl.planner_within hs a
        unfold startedPlanner
        cases hm : n.headMove a with
        | none => exact ⟨h1, h2, h3, h4, h5⟩
        | some m =>
          obtain ⟨h6, h7, -⟩ := hl.headMove_within hs hm
          exact ⟨h1, h2, Int.mul_le_mul_of_nonneg_right h6 (by decide), Int.mul_le_mul_of_nonneg_right h7 (by decide),
            Nat.zero_le _⟩
      · obtain ⟨d, hd, hmove⟩ := markHead_sub false n c (by simpa [started] using hc)
        intro x hx
        rw [hlive]
        exact hl.cue_within hs hd a x (hmove a ▸ hx)
    show (raiseIf _ _ n.started).LimitLaw
    unfold raiseIf
    split
    · exact limitLaw_raise hstarted
    · exact hstarted
  hold n hph := fun ⟨hp, hl⟩ => ⟨courseLaw_closed.hold n hph hp,
    hl.of_served (inService_of_phase _ hph rfl) (inService_of_phase _ (setPhase_phase _ _) rfl)
      (by rw [setPhase_cue_queue]; exact sub_of_subset (List.Subset.refl _)) (by simp) (planners_same (by simp) (by simp))⟩
  arrive n hph := fun ⟨hp, hl⟩ => by
    refine ⟨courseLaw_closed.arrive n hph hp, hl.of_served (inService_of_phase _ hph rfl)
      (inService_of_phase _ (enterSettling_cue_phase n) rfl)
      (by rw [enterSettling_queue]; exact sub_of_subset (List.Subset.refl _)) (by simp) fun a => ?_⟩
    rcases enterSettling_planner n a with e | e <;> rw [e]
    · exact ⟨rfl, rfl, Nat.le_refl _⟩
    · exact ⟨rfl, rfl, Nat.zero_le _⟩
  resume n hph := fun ⟨hp, hl⟩ => ⟨courseLaw_closed.resume n hph hp,
    hl.of_served (inService_of_phase _ hph rfl) (inService_of_phase _ (setPhase_phase _ _) rfl)
      (by rw [setPhase_cue_queue]; exact sub_of_subset (List.Subset.refl _)) (by simp) (planners_same (by simp) (by simp))⟩
  stop n hph := fun ⟨hp, hl⟩ => ⟨courseLaw_closed.stop n hph hp,
    hl.of_served (inService_of_phase _ hph rfl) (inService_of_phase _ (setPhase_phase _ _) rfl)
      (by rw [setPhase_cue_queue, retireHead_cue_queue]; exact sub_of_subset (List.tail_subset _)) (by simp)
      (planners_same (by simp) (by simp))⟩
  retire n hph := fun ⟨hp, hl⟩ => ⟨courseLaw_closed.retire n hph hp,
    hl.of_served (inService_of_phase _ hph rfl) (inService_of_phase _ (retireDone_cue_phase n) rfl)
      (by rw [retireDone_cue_queue]; exact sub_of_subset (List.tail_subset _)) (by simp)
      (planners_same (by simp) (by simp))⟩
  settle n hph := fun ⟨hp, hl⟩ => ⟨courseLaw_closed.settle n hph hp,
    hl.of_served (inService_of_phase _ hph rfl) (inService_of_phase _ (setPhase_phase _ _) rfl)
      (by rw [setPhase_cue_queue]; exact sub_of_subset (List.Subset.refl _)) (by simp) (planners_same (by simp) (by simp))⟩
  plan a n hs := fun ⟨hp, hl⟩ => ⟨courseLaw_closed.plan a n hs hp, limitLaw_planAxis a hs hp.2 hl⟩
  tow n := fun ⟨hp, hl⟩ => by
    refine ⟨courseLaw_closed.tow n hp, ?_⟩
    have hserv : (enterTowed n).inService = n.inService := by simp [enterTowed, inService]
    cases hs : n.inService with
    | true =>
      refine hl.of_served hs (hserv.trans hs) (by simpa [enterTowed] using sub_of_subset (List.Subset.refl _))
        (by simp [enterTowed]) fun a => ?_
      cases a <;> simp [enterTowed, planner]
    | false =>
      exact limitLaw_out (hserv.trans hs) (by simpa [enterTowed] using hl.queue_nil hs)
        (fun h => by simpa [enterTowed] using hl.2.1 (by simpa [enterTowed] using h))
  clearFaults n := fun ⟨hp, hl⟩ => by
    refine ⟨courseLaw_closed.clearFaults n hp, ?_⟩
    rcases clearFaults_cases n with he | ⟨hph, -, -, hcue⟩
    · rw [he]; exact hl
    · have hkeep : (Node.clearFaults n).ring = n.ring ∧ (Node.clearFaults n).tilt = n.tilt
          ∧ (Node.clearFaults n).cfg = n.cfg ∧ (Node.clearFaults n).cue.queue = n.cue.queue := by
        unfold Node.clearFaults
        split
        · dsimp only
          split <;> split <;> simp
        · exact ⟨rfl, rfl, rfl, rfl⟩
      obtain ⟨hr, ht, hc, hq⟩ := hkeep
      refine hl.of_served (inService_of_phase _ hph rfl) ?_ (by rw [hq]; exact sub_of_subset (List.Subset.refl _))
        (by rw [hc]) (planners_same hr ht)
      rcases hcue with e | ⟨e, -⟩
      · exact inService_of_phase _ ((congrArg CueCtl.phase e).trans hph) rfl
      · exact inService_of_phase _ e rfl
  clearTow n := fun ⟨hp, hl⟩ => by
    refine ⟨courseLaw_closed.clearTow n hp, ?_⟩
    have hserv : (Node.clearTow n).inService = n.inService := by simp [inService]
    have hx : (Node.clearTow n).rx.queue = n.rx.queue := by
      unfold Node.clearTow
      split <;> simp
    cases hs : n.inService with
    | true =>
      refine hl.of_served hs (hserv.trans hs) (by simpa using sub_of_subset (List.Subset.refl _)) (by simp) fun a => ?_
      cases a with
      | tilt => simp [planner]
      | ring =>
        rcases clearTow_cases n with e | ⟨-, -, -, h1, h2, h3, -⟩
        · rw [e]; exact ⟨rfl, rfl, Nat.le_refl _⟩
        · exact ⟨h1, h3, h2.le⟩
    | false =>
      exact limitLaw_out (hserv.trans hs) (by simpa using hl.queue_nil hs)
        (fun h => hx.trans (hl.2.1 (by simpa using h)))
  join r n hx hheld hnone := fun ⟨hp, hl⟩ => by
    refine ⟨courseLaw_closed.join r n hx hheld hnone hp, ?_⟩
    obtain ⟨hs, hrange⟩ := served_of_accepted (fun h => hx (hl.2.1 h)) hnone
    refine (limitLaw_iff _).2 ⟨fun h => ?_, hl.2.1, fun _ => ⟨hl.good hs, fun a => ⟨hl.planner_within hs a, fun c hc => ?_⟩⟩⟩
    · exact absurd (hs.symm.trans h) (by decide)
    · rcases List.mem_append.1 hc with hc | hc
      · exact hl.cue_within hs hc a
      · rw [List.mem_singleton.1 hc]; exact entryOf_within hrange a
  cancel id n := fun ⟨hp, hl⟩ => by
    refine ⟨courseLaw_closed.cancel id n hp, ?_⟩
    rcases cancelCue_cases id n with he | he | ⟨c, rest, hq, -, -, he⟩ <;> rw [he]
    · exact hl
    · rcases cancelHead_cases n with he | ⟨he, hph⟩ | ⟨he, hph⟩ | ⟨he, hph⟩ <;> rw [he]
      · exact hl
      · refine hl.of_served (by rcases hph with e | e <;> exact inService_of_phase _ e rfl) ?_
          (by rw [retireHead_cue_queue]; exact sub_of_subset (List.tail_subset _)) (by simp)
          (planners_same (by simp) (by simp))
        rcases hph with e | e <;> exact inService_of_phase _ ((retireHead_cue_phase _ _).trans e) rfl
      · exact hl.of_served (inService_of_phase _ hph rfl) (inService_of_phase _ (setPhase_phase _ _) rfl)
          (by rw [setPhase_cue_queue, retireHead_cue_queue]; exact sub_of_subset (List.tail_subset _)) (by simp)
          (planners_same (by simp) (by simp))
      · exact hl.of_served (by rcases hph with e | e <;> exact inService_of_phase _ e rfl)
          (inService_of_phase _ (setPhase_phase _ _) rfl)
          (by rw [setPhase_cue_queue]; exact sub_of_subset (List.Subset.refl _)) (by simp)
          (planners_same (by simp) (by simp))
    · have hs : n.inService = true := by
        by_contra hcon
        have := hl.queue_nil (by simpa using hcon)
        rw [hq] at this; cases this
      refine hl.of_served hs (by simpa [inService] using hs) ?_ (by simp) (planners_same (by simp) (by simp))
      rw [pushRetired_cue_queue, hq]
      refine sub_of_subset fun x hx => ?_
      rcases List.mem_cons.1 hx with rfl | hx
      · simp
      · exact List.mem_cons_of_mem _ (List.mem_of_mem_filter hx)
  reset n := fun ⟨hp, _⟩ => ⟨courseLaw_closed.reset n hp, limitLaw_out rfl rfl (fun _ => rfl)⟩
  powerOn s p := ⟨courseLaw_closed.powerOn s p, limitLaw_out rfl rfl (fun _ => rfl)⟩
  read bytes n := fun ⟨hp, hl⟩ => by
    refine ⟨courseLaw_closed.read bytes n hp, ?_⟩
    rcases configReadComplete_cases bytes n with he | ⟨hph, ⟨hv, he⟩ | ⟨-, he⟩⟩ <;> rw [he]
    · exact hl
    · have hq : n.cue.queue = [] := hl.queue_nil (by unfold inService; rw [hph]; rfl)
      exact limitLaw_startConfigured (n := readIn bytes n) hq (by rw [readIn_live]; exact fieldsGood_of_valid hv)
    · have hq : n.cue.queue = [] := hl.queue_nil (by unfold inService; rw [hph]; rfl)
      refine limitLaw_out ?_ ?_ fun h => ?_
      · unfold inService; rw [startUnconfigured_cue_phase]; rfl
      · simpa [startUnconfigured, refreshAttention, readIn] using hq
      · rw [startUnconfigured_cue_phase] at h; cases h

end Node

end Sys2Proof.Machine
end

section
/-! The step of a setpoint in one control tick (R109): everything before the planners and after them leaves the setpoints. -/

namespace Sys2Proof.Machine

/-- The planners act once in a tick (R90, log entry 2). -/
theorem schedule_split (order : List TickBlock) : ∃ before after : List TickBlock,
    schedule order = before ++ .planners :: after ∧ (∀ b ∈ before, b ≠ .planners) ∧ ∀ b ∈ after, b ≠ .planners := by
  refine ⟨_, _, rfl, fun b hb => ?_, fun b hb => ?_⟩
  · have := List.mem_takeWhile_imp hb
    simp only [Bool.and_eq_true, bne_iff_ne] at this
    exact this.1
  · simpa using (List.mem_filter.1 hb).2

namespace Node

theorem runBlocks_append (l k : List TickBlock) (n : Node) : runBlocks (l ++ k) n = runBlocks k (runBlocks l n) :=
  List.foldl_append

theorem runBlocks_cons (b : TickBlock) (k : List TickBlock) (n : Node) :
    runBlocks (b :: k) n = runBlocks k (settled true (runBlock b n)) := rfl

/-- In service, `m` has come from `n` with the setpoints and the live copy as they were; and, where it is so late in a tick that
no CLEAR comes any more, with ESTOP latched and the ring towed where they were. -/
def SetpointsStand (late : Bool) (n m : Node) : Prop :=
  m.inService = true → n.inService = true ∧ (∀ a, (m.planner a).setpoint = (n.planner a).setpoint)
    ∧ m.cfg.live = n.cfg.live
    ∧ (late = true → (n.faults.has .estop = true → m.faults.has .estop = true)
        ∧ (n.ringMode = .towed → m.ringMode = .towed))

theorem SetpointsStand.refl (late : Bool) (n : Node) : SetpointsStand late n n :=
  fun hs => ⟨hs, fun _ => rfl, rfl, fun _ => ⟨id, id⟩⟩

theorem SetpointsStand.trans {late : Bool} {s n m : Node} (h : SetpointsStand late s n) (g : SetpointsStand late n m) :
    SetpointsStand late s m := fun hs => by
  obtain ⟨hn, hset, hlive, hlate⟩ := g hs
  obtain ⟨hs', hset', hlive', hlate'⟩ := h hn
  exact ⟨hs', fun a => (hset a).trans (hset' a), hlive.trans hlive', fun hl =>
    ⟨fun he => (hlate hl).1 ((hlate' hl).1 he), fun ht => (hlate hl).2 ((hlate' hl).2 ht)⟩⟩

/-- An act in service that leaves the setpoints, the live copy, the faults and the ring mode. -/
theorem SetpointsStand.of_served {late : Bool} {n m : Node} (hn : n.inService = true)
    (hset : ∀ a, (m.planner a).setpoint = (n.planner a).setpoint) (hlive : m.cfg.live = n.cfg.live)
    (hf : m.faults = n.faults) (hmode : m.ringMode = n.ringMode) : SetpointsStand late n m :=
  fun _ => ⟨hn, hset, hlive, fun _ => ⟨fun h => hf ▸ h, fun h => hmode ▸ h⟩⟩

theorem setpoints_same {n m : Node} (hr : m.ring = n.ring) (ht : m.tilt = n.tilt) (a : Axis) :
    (m.planner a).setpoint = (n.planner a).setpoint := (planners_same hr ht a).1

theorem setpointsStand_raise (late : Bool) (k : FaultKind) (n : Node) : SetpointsStand late n (raise k n) := by
  rcases raise_cases k n with he | ⟨hs, -, -⟩
  · rw [he]; exact .refl late n
  · exact fun _ => ⟨hs, fun a => (raise_planners k n a).1, by simp,
      fun _ => ⟨raise_faults_has, fun ht => (raise_ringMode k n).trans ht⟩⟩

theorem setpointsStand_started (late : Bool) {n : Node} (hs : n.inService = true) : SetpointsStand late n (started n) :=
  .of_served hs (fun a => by
    rw [started_planner]
    unfold startedPlanner
    split <;> rfl) (by simp [started]) (by simp) (by simp [started])

/-- Every act but the planners', the start of the part, and the fault and tow parts of a CLEAR leaves the setpoints. -/
theorem setpointsStand_closed (late : Bool) (s : Node) : MoveClosed (SetpointsStand late s) where
  keeps := fun {n m} hk h => h.trans fun hs => by
    have hset (a : Axis) : (m.planner a).setpoint = (n.planner a).setpoint := by
      cases a
      · exact (Planner.course_eq hk.ring).1
      · exact (Planner.course_eq hk.tilt).1
    exact ⟨by unfold inService at hs ⊢; rwa [← hk.phase], hset, hk.live,
      fun _ => ⟨fun h => hk.faults ▸ h, fun h => hk.ringMode ▸ h⟩⟩
  raise k n h := h.trans (setpointsStand_raise late k n)
  halt n hs _ h := h.trans (.of_served hs (setpoints_same (by simp) (by simp)) (by simp) (by simp) (by simp))
  arm n hp _ _ h := h.trans (.of_served (inService_of_phase _ hp rfl) (setpoints_same (by simp) (by simp)) (by simp)
    (by simp) (by simp))
  fail r n hp h := h.trans (.of_served (by rcases hp with e | e <;> exact inService_of_phase _ e rfl)
    (setpoints_same (by simp) (by simp)) (by simp) (by simp) (by simp))
  start n hp _ h := by
    have hstarted := h.trans (setpointsStand_started late (inService_of_phase _ hp rfl))
    show SetpointsStand late s (raiseIf _ _ n.started)
    unfold raiseIf
    split
    · exact hstarted.trans (setpointsStand_raise late _ _)
    · exact hstarted
  hold n hp h := h.trans (.of_served (inService_of_phase _ hp rfl) (setpoints_same (by simp) (by simp)) (by simp)
    (by simp) (by simp))
  arrive n hp h := h.trans (.of_served (inService_of_phase _ hp rfl)
    (fun a => by rcases enterSettling_planner n a with e | e <;> rw [e]) (by simp) (by simp) (by simp))
  resume n hp h := h.trans (.of_served (inService_of_phase _ hp rfl) (setpoints_same (by simp) (by simp)) (by simp)
    (by simp) (by simp))
  stop n hp h := h.trans (.of_served (inService_of_phase _ hp rfl) (setpoints_same (by simp) (by simp)) (by simp)
    (by simp) (by simp))
  retire n hp h := h.trans (.of_served (inService_of_phase _ hp rfl) (setpoints_same (by simp) (by simp)) (by simp)
    (by simp) (by simp))
  settle n hp h := h.trans (.of_served (inService_of_phase _ hp rfl) (setpoints_same (by simp) (by simp)) (by simp)
    (by simp) (by simp))
  tow n h := h.trans fun hs => ⟨by simpa [enterTowed, inService] using hs, fun a => by cases a <;> simp [enterTowed, planner],
    by simp [enterTowed], fun _ => ⟨fun h => by simpa [enterTowed] using h, fun _ => by simp [enterTowed]⟩⟩
  join r n _ _ _ h := h.trans fun hs => ⟨hs, fun _ => rfl, rfl, fun _ => ⟨id, id⟩⟩
  cancel id n h := h.trans <| by
    rcases cancelCue_cases id n with he | he | ⟨c, rest, -, -, -, he⟩ <;> rw [he]
    · exact .refl late n
    · rcases cancelHead_cases n with he | ⟨he, hp⟩ | ⟨he, hp⟩ | ⟨he, hp⟩ <;> rw [he]
      · exact .refl late n
      · exact .of_served (by rcases hp with e | e <;> exact inService_of_phase _ e rfl)
          (setpoints_same (by simp) (by simp)) (by simp) (by simp) (by simp)
      · exact .of_served (inService_of_phase _ hp rfl) (setpoints_same (by simp) (by simp)) (by simp) (by simp) (by simp)
      · exact .of_served (by rcases hp with e | e <;> exact inService_of_phase _ e rfl)
          (setpoints_same (by simp) (by simp)) (by simp) (by simp) (by simp)
    · exact fun hs => ⟨by simpa [inService] using hs, setpoints_same (by simp) (by simp), by simp,
        fun _ => ⟨fun h => by simpa using h, fun h => by simpa using h⟩⟩
  reset n _ := nofun

theorem setpointsStand_clearFaults (n : Node) : SetpointsStand false n (clearFaults n) := by
  rcases clearFaults_cases n with he | ⟨hp, -, -, -⟩
  · rw [he]; exact .refl false n
  · have hkeep : (clearFaults n).ring = n.ring ∧ (clearFaults n).tilt = n.tilt ∧ (clearFaults n).cfg = n.cfg := by
      unfold clearFaults
      split
      · dsimp only
        split <;> split <;> simp
      · exact ⟨rfl, rfl, rfl⟩
    exact fun _ => ⟨inService_of_phase _ hp rfl, setpoints_same hkeep.1 hkeep.2.1, by rw [hkeep.2.2], nofun⟩

theorem setpointsStand_clearTow (n : Node) : SetpointsStand false n (clearTow n) := fun hs => by
  refine ⟨by simpa [inService] using hs, fun a => ?_, by simp, nofun⟩
  cases a with
  | tilt => simp [planner]
  | ring =>
    rcases clearTow_cases n with e | ⟨-, -, -, h, -⟩
    · rw [e]
    · exact h

/-- What comes before the planners in a tick leaves the setpoints. -/
theorem setpointsStand_before (s : Node) : KeptBy (SetpointsStand false s)
    (fun c => c.IsMove = true ∨ c = .clearFaultPart ∨ c = .clearTowPart) (fun b => b ≠ .planners) :=
  { (setpointsStand_closed false s).keptBy with
    effect := fun c n hc h => by
      rcases hc with hc | rfl | rfl
      · exact (setpointsStand_closed false s).effect c hc n h
      · exact (setpointsStand_closed false s).applyClearFault (fun m hm => hm.trans (setpointsStand_clearFaults m)) n h
      · exact (setpointsStand_closed false s).applyClearTow (fun m hm => hm.trans (setpointsStand_clearTow m)) n h }

/-- An axis that does not follow moves its setpoint at a tick by at most the cruise step (R109). -/
theorem planAxis_step {n : Node} {a : Axis} (hs : n.inService = true) (hfol : n.follows a = false)
    (hscale : n.supplyScale ≤ 256) (hc : n.CourseLaw) (hl : n.LimitLaw) :
    (((planAxis a n).planner a).setpoint - (n.planner a).setpoint).natAbs ≤ speedStep (Live.cruiseMax n.cfg.live a) := by
  obtain ⟨p, d, he, hp⟩ := planAxis_eq a n
  have hplanner : (planAxis a n).planner a = p := by rw [he]; cases a <;> rfl
  rw [hplanner]
  rcases hp.committed hs hfol hscale hc hl with rfl | ⟨c, pinch, rfl, hahead, hle⟩
  · simp [Planner.hold]
  · simp only [Planner.commit]
    obtain ⟨h0, -⟩ := hahead
    rcases Planner.signOf_cases (n.planner a).up with hd | hd <;> rw [hd] at hle h0 <;> omega

theorem planAxis_other {a b : Axis} (h : b ≠ a) (n : Node) : (planAxis a n).planner b = n.planner b := by
  obtain ⟨p, d, he, -⟩ := planAxis_eq a n
  rw [he, ← setPlanner_other h p n]
  cases b <;> rfl

/-- What the planners read of each other at a tick: nothing. -/
theorem planAxis_reads (a : Axis) (n : Node) : (planAxis a n).cfg = n.cfg ∧ (planAxis a n).faults = n.faults
    ∧ (planAxis a n).ringMode = n.ringMode ∧ (planAxis a n).inService = n.inService
    ∧ (planAxis a n).supplyScale = n.supplyScale := by
  obtain ⟨p, d, he, -⟩ := planAxis_eq a n
  rw [he]
  simp [inService]

theorem follows_false {n : Node} {a : Axis} (he : n.faults.has .estop = false) (hr : a = .ring → n.ringMode = .driven) :
    n.follows a = false := by
  unfold follows estopLatched
  rw [he]
  cases a
  · simp [hr rfl]
  · rfl

/-- The planners of a tick move a setpoint that does not follow by at most the cruise step. -/
theorem runPlanners_step {n : Node} {a : Axis} (hs : n.inService = true) (hlaws : (n.FaultLaw ∧ n.CourseLaw) ∧ n.LimitLaw)
    (he : n.faults.has .estop = false) (hr : a = .ring → n.ringMode = .driven) :
    (((runPlanners n).planner a).setpoint - (n.planner a).setpoint).natAbs ≤ speedStep (Live.cruiseMax n.cfg.live a) := by
  have hrescale : rescale n = { n with supplyScale := supplyScaleOf (Live.supplyBudget n.live) n.demandSum } := if_pos hs
  have hscale : (rescale n).supplyScale ≤ 256 := by rw [hrescale]; exact (supplyScaleOf_bounds _ _).2
  have hlaws' : ((rescale n).FaultLaw ∧ (rescale n).CourseLaw) ∧ (rescale n).LimitLaw :=
    limitLaw_closed.keeps (n := n) (by rw [hrescale]; exact .of_fields rfl rfl rfl rfl rfl rfl rfl rfl) hlaws
  have hs' : (rescale n).inService = true := by rw [hrescale]; exact hs
  have hn (b : Axis) : (rescale n).planner b = n.planner b := by rw [hrescale]; cases b <;> rfl
  have hcfg : (rescale n).cfg = n.cfg := by rw [hrescale]
  have hf : (rescale n).faults = n.faults := by rw [hrescale]
  have hm : (rescale n).ringMode = n.ringMode := by rw [hrescale]
  show (((planAxis .tilt (planAxis .ring (rescale n))).planner a).setpoint - _).natAbs ≤ _
  cases a with
  | ring =>
    rw [planAxis_other (by decide), ← hn, ← hcfg]
    exact planAxis_step hs' (follows_false (hf ▸ he) (hm ▸ hr)) hscale hlaws'.1.2 hlaws'.2
  | tilt =>
    obtain ⟨hc1, hc2, hc3, hc4, hc5⟩ := planAxis_reads .ring (rescale n)
    have hlaws'' := limitLaw_closed.plan .ring (rescale n) (fun _ => hscale) hlaws'
    have := planAxis_step (n := planAxis .ring (rescale n)) (a := .tilt) (hc4.trans hs')
      (follows_false (by rw [hc2, hf]; exact he) nofun) (hc5.le.trans hscale) hlaws''.1.2 hlaws''.2
    rwa [planAxis_other (by decide : Axis.tilt ≠ .ring), hn, hc1, hcfg] at this

end Node

/-- Settles O59: the laws by induction over the acts of a step; and of a tick the planners alone, which act once, move a
setpoint. -/
theorem setpointsKeepSoftLimits : Obligations.SetpointsKeepSoftLimits := by
  intro c s t hup hf hc hl ht
  refine ⟨(Node.limitLaw_closed.exec hup ht ⟨⟨hf, hc⟩, hl⟩).2, ?_⟩
  rintro order a rfl hserv hestop hring
  show _ ≤ speedStep (Live.cruiseMax s.node.cfg.live a)
  rcases exec_cases ht with ⟨⟨_, _, h⟩ | h, -⟩ | ⟨-, he⟩ | ⟨-, order', h, he⟩ | ⟨-, h, -⟩ | ⟨-, hown, -⟩
  · cases h
  · cases h
  · rw [he]; simp
  · cases h
    obtain ⟨before, after, hsplit, hbefore, hafter⟩ := schedule_split order
    -- what stands just before the planners
    set n := Node.runBlocks before (Node.allow (Node.beforeTick s.node.deliverHalts)) with hn
    have hstand : Node.SetpointsStand false s.node n := by
      have hkept := Node.setpointsStand_before s.node
      have hA (c : Instr) (h : c.InTick = true) : c.IsMove = true ∨ c = .clearFaultPart ∨ c = .clearTowPart :=
        Instr.isMove_of_inTick h
      exact hkept.runBlocks (fun _ hc => .inl hc.isMove) before hbefore _ (hkept.allow _ (hkept.beforeTick hA _
        (hkept.deliverHalts (.inl rfl) _ (.refl false s.node))))
    have hlaws : (n.FaultLaw ∧ n.CourseLaw) ∧ n.LimitLaw := by
      have hkept := Node.limitLaw_closed.keptBy
      have hA (c : Instr) (h : c.InTick = true) :
          (∀ address value, c ≠ .liveCopyAlteration address value) ∧ ∀ order, c ≠ .controlTick order := by
        constructor
        · rintro _ _ rfl; cases h
        · rintro _ rfl; cases h
      exact hkept.runBlocks (fun c hc => hA c hc.inTick) before (fun _ _ => trivial) _ (hkept.allow _ (hkept.beforeTick hA _
        (hkept.deliverHalts ⟨by simp, by simp⟩ _ ⟨⟨hf, hc⟩, hl⟩)))
    -- what stands after them
    have hlate : Node.SetpointsStand true (Node.runPlanners n) t.node := by
      have hkept := (Node.setpointsStand_closed true (Node.runPlanners n)).keptBy
      rw [he]
      unfold Node.controlTick
      rw [hsplit, Node.runBlocks_append, Node.runBlocks_cons, ← hn]
      exact hkept.finish true _ (hkept.runBlocks (fun _ hc => hc.isMove) after hafter _
        (hkept.settled true _ (.refl true _)))
    obtain ⟨hs', hset, -, hkeep⟩ := hlate hserv
    have hplan : (Node.runPlanners n).inService = n.inService ∧ (Node.runPlanners n).faults = n.faults
        ∧ (Node.runPlanners n).ringMode = n.ringMode := by
      obtain ⟨-, h2, h3, h4, -⟩ := Node.planAxis_reads .tilt (Node.planAxis .ring (Node.rescale n))
      obtain ⟨-, g2, g3, g4, -⟩ := Node.planAxis_reads .ring (Node.rescale n)
      have hr : (Node.rescale n).inService = n.inService ∧ (Node.rescale n).faults = n.faults
          ∧ (Node.rescale n).ringMode = n.ringMode := by
        unfold Node.rescale
        split <;> exact ⟨rfl, rfl, rfl⟩
      exact ⟨h4.trans (g4.trans hr.1), h2.trans (g2.trans hr.2.1), h3.trans (g3.trans hr.2.2)⟩
    obtain ⟨hpserv, hpfault, hpmode⟩ := hplan
    have hsn : n.inService = true := hpserv ▸ hs'
    obtain ⟨-, hsets, hlive, -⟩ := hstand hsn
    have hnest : n.faults.has .estop = false := by
      by_contra hcon
      have := (hkeep rfl).1 (by rw [hpfault]; simpa using hcon)
      rw [hestop] at this; cases this
    have hnring : a = .ring → n.ringMode = .driven := by
      intro ha
      cases hm : n.ringMode with
      | driven => rfl
      | towed =>
        have := (hkeep rfl).2 (hpmode.trans hm)
        rw [hring ha] at this; cases this
    have := Node.runPlanners_step hsn hlaws hnest hnring
    rwa [hlive, hsets a, ← hset a] at this
  · cases h
  · exact absurd (.inr (.inr (.inl ⟨order, rfl⟩))) hown

end Sys2Proof.Machine
end

section
/-! The brakes and hold causes at the end of a step (R112, R147), and the cue queue and retired list (R64 to R66). -/

namespace Sys2Proof.Machine

theorem HoldSet.has_or (g h : HoldSet) (c : HoldCause) : (g ||| h).has c = (g.has c || h.has c) := BitVec.getLsbD_or

theorem HoldSet.has_when (d : HoldCause) (b : Bool) (c : HoldCause) : (HoldSet.when d b).has c = (b && decide (d = c)) := by
  cases b <;> cases d <;> cases c <;> decide

namespace Node

theorem trippedWith_iff (n : Node) (action : Nat) :
    n.trippedWith action = true ↔ ∃ c : Fin 8, (n.liveRecord c).tripped = true ∧ n.channelAction c = action := by
  have hall (c : Fin 8) : c ∈ channels := by revert c; decide
  unfold trippedWith
  rw [List.any_eq_true]
  simp only [Bool.and_eq_true, beq_iff_eq]
  exact ⟨fun ⟨c, _, h⟩ => ⟨c, h⟩, fun ⟨c, h⟩ => ⟨c, hall c, h⟩⟩

theorem inService_iff (n : Node) : n.inService = true ↔ n.cue.phase ≠ .starting ∧ n.cue.phase ≠ .configFault := by
  unfold inService
  cases n.cue.phase <;> simp [Phase.inService]

/-- Where nothing is outstanding every brake follows its command (R147). -/
theorem brakeLaw_of_done {tick : Bool} {n : Node} (h : n.nextConsequence tick = none) : n.BrakeLaw := by
  intro a hrel
  rw [released_of_calm h a] at hrel
  unfold brakeCommand estopLatched at hrel
  simp only [Bool.and_eq_true, Bool.or_eq_true, Bool.not_eq_true', beq_iff_eq, decide_eq_true_eq] at hrel
  obtain ⟨⟨hestop, hmoves⟩, hphase⟩ := hrel
  refine ⟨hestop, (headMoves_iff n a).1 hmoves, ?_⟩
  rcases hphase with ⟨hmot, hrel⟩ | ⟨⟨⟨hp, hr⟩, hv⟩, hm⟩
  · refine .inl ⟨?_, Option.isSome_iff_ne_none.1 hrel⟩
    revert hmot
    cases n.cue.phase <;> simp [Phase.inMotion]
  · refine .inr ⟨hp, hr, hv, ?_⟩
    rintro rfl
    simpa using hm

/-- Where nothing is outstanding the hold causes are those wanted (R112). -/
theorem holdLaw_of_done {tick : Bool} {n : Node} (h : n.nextConsequence tick = none) : n.HoldLaw := by
  have hwanted (c : HoldCause) : n.cue.holds.has c = n.wantedHolds.has c := by rw [holds_of_calm h]
  have hpeer : n.peerSilent = true ↔ ∃ e ∈ n.peers.entries, e.freshness = .stale ∨ e.freshness = .lost := by
    simp [peerSilent]
  have haction (c : Fin 8) (hs : n.inService = true) : n.channelAction c = Live.channelAction n.live c := if_pos hs
  unfold HoldLaw
  dsimp only
  simp only [hwanted, ← inService_iff]
  cases hs : n.inService with
  | true =>
    simp only [wantedHolds, hs, if_true, HoldSet.has_or, HoldSet.has_when, reduceCtorEq, decide_false, decide_true,
      Bool.and_false, Bool.and_true, Bool.or_false, Bool.false_or, true_and, Option.isNone_iff_eq_none, Bool.not_eq_true',
      Bool.and_eq_true]
    refine ⟨hpeer, ?_, ?_⟩
    · rw [headMoves_iff]
    · rw [trippedWith_iff]
      simp only [haction _ hs]
  | false =>
    simp [wantedHolds, hs, HoldSet.has_when]

end Node

/-- Settles O56: both laws hold wherever nothing is outstanding, so after every step; with RSTN low nothing changes, and at its
fall the brakes are applied. -/
theorem brakesAndHoldsStayInStep : Obligations.BrakesAndHoldsStayInStep := by
  intro c s t ht
  by_cases hreset : c = .rstnHeldLow
  · subst hreset
    cases ht
    exact ⟨fun _ a ha => (by cases a <;> cases ha), id⟩
  cases hlow : s.node.rstnLow with
  | false =>
    obtain ⟨tick, hdone⟩ := exec_done hlow hreset ht
    exact ⟨fun _ => Node.brakeLaw_of_done hdone, fun _ => Node.holdLaw_of_done hdone⟩
  | true =>
    rcases exec_cases ht with ⟨⟨straps, pins, rfl⟩ | rfl, he⟩ | ⟨-, he⟩ | ⟨hl, -⟩ | ⟨hl, -⟩ | ⟨hl, -⟩
    · rw [he]
      exact ⟨fun _ => Node.brakeLaw_of_done (Node.powerOn_calm straps pins),
        fun _ => Node.holdLaw_of_done (Node.powerOn_calm straps pins)⟩
    · exact absurd rfl hreset
    · rw [he]; exact ⟨id, id⟩
    all_goals exact absurd (hlow.symm.trans hl) (by decide)

/-! ### The cue queue and the retired list -/

/-- At most four cues and four retired records, with no id held twice (R64 to R66). -/
def CuesHeld (queue : List Cue) (retired : List Retired) : Prop :=
  queue.length ≤ 4 ∧ retired.length ≤ 4 ∧ (queue.map (·.id) ++ retired.map (·.id)).Nodup

/-- The retired list with a record pushed, its newest four kept (R65). -/
def pushed (retired : List Retired) (id : CueId) (how : CueEnd) : List Retired :=
  (retired ++ [Retired.mk id how]).drop ((retired ++ [Retired.mk id how]).length - 4)

/-- A cue that leaves the queue joins the retired list. -/
theorem CuesHeld.retire {q p : List Cue} {r : List Retired} {id : CueId} (h : CuesHeld q r) (hsub : p.Sublist q)
    (hin : id ∈ q.map (·.id)) (hout : id ∉ p.map (·.id)) (how : CueEnd) : CuesHeld p (pushed r id how) := by
  obtain ⟨hq, -, hnodup⟩ := h
  rw [List.nodup_append] at hnodup
  obtain ⟨hnq, hnr, hdisj⟩ := hnodup
  have hmem (x : Retired) (hx : x ∈ pushed r id how) : x ∈ r ∨ x = ⟨id, how⟩ := by
    simpa using List.mem_of_mem_drop hx
  refine ⟨hsub.length_le.trans hq, by unfold pushed; rw [List.length_drop]; omega, ?_⟩
  rw [List.nodup_append]
  refine ⟨hnq.sublist (hsub.map _), ?_, ?_⟩
  · refine List.Nodup.sublist ((List.drop_sublist _ _).map _) ?_
    rw [List.map_append, List.nodup_append]
    refine ⟨hnr, by simp, fun a ha b hb => ?_⟩
    simp only [List.map_cons, List.map_nil, List.mem_singleton] at hb
    rw [hb]
    exact fun e => hdisj _ hin _ ha e.symm
  · intro a ha b hb
    obtain ⟨x, hx, rfl⟩ := List.mem_map.1 hb
    rcases hmem x hx with hx | rfl
    · exact hdisj a ((hsub.map _).mem ha) _ (List.mem_map_of_mem hx)
    · rintro rfl; exact hout ha

/-- The head leaves the queue. -/
theorem CuesHeld.retireHead {c : Cue} {rest : List Cue} {r : List Retired} (h : CuesHeld (c :: rest) r) (how : CueEnd) :
    CuesHeld rest (pushed r c.id how) := by
  refine h.retire (List.sublist_cons_self _ _) (by simp) ?_ how
  have := (List.nodup_append.1 h.2.2).1
  rw [List.map_cons, List.nodup_cons] at this
  exact this.1

/-- A mark on the head changes no id. -/
theorem CuesHeld.mark {c d : Cue} {rest : List Cue} {r : List Retired} (h : CuesHeld (c :: rest) r) (hid : d.id = c.id) :
    CuesHeld (d :: rest) r := by
  unfold CuesHeld at h ⊢
  simpa [hid] using h

/-- A new cue joins a queue that is not full. -/
theorem CuesHeld.join {q : List Cue} {r : List Retired} (h : CuesHeld q r) {c : Cue} (hfull : q.length < 4)
    (hq : c.id ∉ q.map (·.id)) (hr : c.id ∉ r.map (·.id)) : CuesHeld (q ++ [c]) r := by
  obtain ⟨-, hlen, hnodup⟩ := h
  refine ⟨by simp; omega, hlen, ?_⟩
  rw [List.nodup_append] at hnodup ⊢
  obtain ⟨hnq, hnr, hdisj⟩ := hnodup
  refine ⟨?_, hnr, fun a ha b hb => ?_⟩
  · rw [List.map_append, List.nodup_append]
    refine ⟨hnq, by simp, fun a ha b hb => ?_⟩
    simp only [List.map_cons, List.map_nil, List.mem_singleton] at hb
    rintro rfl
    exact hq (hb ▸ ha)
  · rw [List.map_append, List.mem_append] at ha
    rcases ha with ha | ha
    · exact hdisj a ha b hb
    · simp only [List.map_cons, List.map_nil, List.mem_singleton] at ha
      rintro rfl
      exact hr (ha ▸ hb)

namespace Node

@[simp] theorem setPhase_cue_retired (p : Phase) (n : Node) : (setPhase p n).cue.retired = n.cue.retired := by
  unfold setPhase
  dsimp only
  split <;> simp

@[simp] theorem setRefusal_cue_retired (id : CueId) (r : CueReason) (n : Node) :
    (setRefusal id r n).cue.retired = n.cue.retired := (keepsCourse_setRefusal id r n).retired

@[simp] theorem requestHalt_cue_retired (k : FaultKind) (n : Node) : (requestHalt k n).cue.retired = n.cue.retired :=
  (keepsCourse_requestHalt k n).retired

@[simp] theorem writeHaltRecord_cue_retired (o : Nat) (r : HaltReason) (n : Node) :
    (writeHaltRecord o r n).cue.retired = n.cue.retired := rfl

@[simp] theorem markHead_cue_retired (b : Bool) (n : Node) : (markHead b n).cue.retired = n.cue.retired := by
  unfold markHead
  split <;> rfl

@[simp] theorem startAxis_cue_retired (a : Axis) (n : Node) : (startAxis a n).cue.retired = n.cue.retired := by
  unfold startAxis
  split
  · rfl
  · cases a <;> rfl

@[simp] theorem pushRetired_cue_retired (id : CueId) (how : CueEnd) (n : Node) :
    (pushRetired id how n).cue.retired = pushed n.cue.retired id how := rfl

theorem retireHead_nil {how : CueEnd} {n : Node} (h : n.cue.queue = []) : retireHead how n = n := by
  unfold retireHead
  rw [h]

theorem retireHead_cons {how : CueEnd} {n : Node} {c : Cue} {rest : List Cue} (h : n.cue.queue = c :: rest) :
    retireHead how n = pushRetired c.id how { n with cue := { n.cue with queue := rest } } := by
  unfold retireHead
  rw [h]

theorem cueLaw_retireHead {n : Node} (how : CueEnd) (h : n.CueLaw) : (retireHead how n).CueLaw := by
  cases hq : n.cue.queue with
  | nil => rwa [retireHead_nil hq]
  | cons c rest =>
    rw [retireHead_cons hq]
    have h' : CuesHeld (c :: rest) n.cue.retired := hq ▸ h
    exact h'.retireHead how

theorem CueLaw.of_cues {n m : Node} (h : n.CueLaw) (hq : m.cue.queue = n.cue.queue) (hr : m.cue.retired = n.cue.retired) :
    m.CueLaw := by
  unfold CueLaw
  rw [hq, hr]
  exact h

theorem cueLaw_markHead {n : Node} (b : Bool) (h : n.CueLaw) : (markHead b n).CueLaw := by
  unfold markHead
  cases hq : n.cue.queue with
  | nil => exact h
  | cons c rest =>
    have h' : CuesHeld (c :: rest) n.cue.retired := hq ▸ h
    exact h'.mark rfl

theorem cueLaw_enterHalted {n : Node} (h : n.CueLaw) : (enterHalted n).CueLaw := by
  unfold enterHalted
  dsimp only
  split
  · exact (cueLaw_retireHead .cancelled h).of_cues (setPhase_cue_queue _ _) (setPhase_cue_retired _ _)
  · exact (cueLaw_markHead true h).of_cues (setPhase_cue_queue _ _) (setPhase_cue_retired _ _)

theorem cueLaw_raise {n : Node} (k : FaultKind) (h : n.CueLaw) : (raise k n).CueLaw := by
  by_cases hb : n.inService = false ∨ n.faults.has k = true
  · rwa [show raise k n = n from if_pos hb]
  · simp only [not_or, Bool.not_eq_false, Bool.not_eq_true] at hb
    have hl : (latched k n).CueLaw := by
      obtain ⟨hc, -⟩ := latched_same k n
      exact h.of_cues (by rw [hc]) (by rw [hc])
    rw [raise_eq hb.1 hb.2]
    split
    · exact hl.of_cues (requestHalt_cue_queue _ _) (requestHalt_cue_retired _ _)
    · exact (cueLaw_enterHalted hl).of_cues (requestHalt_cue_queue _ _) (requestHalt_cue_retired _ _)

theorem cueLaw_failHead {n : Node} (r : CueReason) (h : n.CueLaw) : (failHead r n).CueLaw := by
  have hr := (cueLaw_retireHead .failed h).of_cues (setRefusal_cue_queue n.currentCue r _)
    (setRefusal_cue_retired n.currentCue r _)
  unfold failHead
  dsimp only
  split
  · exact hr
  · exact hr.of_cues (setPhase_cue_queue _ _) (setPhase_cue_retired _ _)

theorem cueLaw_cancelHead {n : Node} (h : n.CueLaw) : (cancelHead n).CueLaw := by
  rcases cancelHead_cases n with he | ⟨he, -⟩ | ⟨he, -⟩ | ⟨he, -⟩ <;> rw [he]
  · exact h
  · exact cueLaw_retireHead _ h
  · exact (cueLaw_retireHead _ h).of_cues (setPhase_cue_queue _ _) (setPhase_cue_retired _ _)
  · exact h.of_cues (setPhase_cue_queue _ _) (setPhase_cue_retired _ _)

theorem cueLaw_cancelCue {n : Node} (id : CueId) (h : n.CueLaw) : (cancelCue id n).CueLaw := by
  rcases cancelCue_cases id n with he | he | ⟨c, rest, hq, hid, hany, he⟩ <;> rw [he]
  · exact h
  · exact cueLaw_cancelHead h
  · have h' : CuesHeld (c :: rest) n.cue.retired := hq ▸ h
    obtain ⟨x, hx, hxid⟩ := List.any_eq_true.1 hany
    refine h'.retire (List.filter_sublist.cons_cons c) ?_ ?_ .cancelled
    · exact List.mem_map.2 ⟨x, List.mem_cons_of_mem _ hx, by simpa using hxid⟩
    · intro hmem
      obtain ⟨y, hy, hyid⟩ := List.mem_map.1 hmem
      rcases List.mem_cons.1 hy with rfl | hy
      · exact hid hyid
      · simpa [hyid] using (List.mem_filter.1 hy).2

theorem cueLaw_haltForKeptFaults {n : Node} (h : n.CueLaw) : (haltForKeptFaults n).CueLaw := by
  unfold haltForKeptFaults
  split
  · exact h
  · exact cueLaw_enterHalted h

/-- A CUE accepted finds room in the queue (R66). -/
theorem room_of_accepted {n : Node} {r : CueRecord} (h : n.refusalOf r = none) : n.cue.queue.length < 4 := by
  unfold refusalOf at h
  split at h
  · cases h
  split at h
  · cases h
  · omega

theorem cueLaw_closed : CourseClosed CueLaw where
  keeps hk h := h.of_cues hk.queue hk.retired
  raise k _ h := cueLaw_raise k h
  halt _ _ _ h := cueLaw_enterHalted h
  arm n _ _ _ h := h.of_cues (by simp) (by simp [enterArmed])
  fail r _ _ h := cueLaw_failHead r h
  start n _ _ h := by
    have hs : n.started.CueLaw := (cueLaw_markHead false h).of_cues (by simp [started]) (by simp [started])
    show (raiseIf _ _ n.started).CueLaw
    unfold raiseIf
    split
    · exact cueLaw_raise _ hs
    · exact hs
  hold n _ h := h.of_cues (by simp) (by simp)
  arrive n _ h := h.of_cues (by simp [enterSettling]) (by simp [enterSettling])
  resume n _ h := h.of_cues (by simp) (by simp)
  stop n _ h := (cueLaw_retireHead .cancelled h).of_cues (setPhase_cue_queue _ _) (setPhase_cue_retired _ _)
  retire n _ h := (cueLaw_retireHead .done h).of_cues (setPhase_cue_queue _ _) (setPhase_cue_retired _ _)
  settle n _ h := h.of_cues (by simp) (by simp)
  plan a n _ h := h.of_cues (by rw [planAxis_cue]) (by rw [planAxis_cue])
  tow n h := h.of_cues (by simp [enterTowed]) (by simp [enterTowed])
  clearFaults n h := by
    have hkeep : (Node.clearFaults n).cue.queue = n.cue.queue ∧ (Node.clearFaults n).cue.retired = n.cue.retired := by
      unfold Node.clearFaults
      split
      · dsimp only
        split <;> split <;> simp
      · exact ⟨rfl, rfl⟩
    exact h.of_cues hkeep.1 hkeep.2
  clearTow n h := h.of_cues (by simp) (by simp)
  join r n _ hheld hnone h := by
    unfold holdsCue at hheld
    rw [Bool.or_eq_false_iff, List.any_eq_false, List.any_eq_false] at hheld
    have h' : CuesHeld n.cue.queue n.cue.retired := h
    refine h'.join (room_of_accepted hnone) ?_ ?_
    · intro hmem
      obtain ⟨x, hx, e⟩ := List.mem_map.1 hmem
      exact hheld.1 x hx (by simpa [entryOf] using e)
    · intro hmem
      obtain ⟨x, hx, e⟩ := List.mem_map.1 hmem
      exact hheld.2 x hx (by simpa [entryOf] using e)
  cancel id n h := cueLaw_cancelCue id h
  reset n _ := ⟨by simp [softReset, CueCtl.initial], by simp [softReset, CueCtl.initial], by simp [softReset, CueCtl.initial]⟩
  powerOn _ _ := ⟨by simp [Node.powerOn, CueCtl.initial], by simp [Node.powerOn, CueCtl.initial],
    by simp [Node.powerOn, CueCtl.initial]⟩
  read bytes n h := by
    rcases configReadComplete_cases bytes n with he | ⟨-, ⟨-, he⟩ | ⟨-, he⟩⟩ <;> rw [he]
    · exact h
    · have hc : (configured (readIn bytes n)).CueLaw := h.of_cues
        (by simp [configured, refreshAttention, startSupervision, startPlanner, readIn])
        (by simp [configured, refreshAttention, startSupervision, startPlanner, readIn])
      rw [startConfigured_eq]
      unfold raiseIf
      split
      · exact cueLaw_raise _ (cueLaw_haltForKeptFaults hc)
      · exact cueLaw_haltForKeptFaults hc
    · exact h.of_cues (by simp [startUnconfigured, refreshAttention, readIn])
        (by simp [startUnconfigured, refreshAttention, readIn])

end Node

end Sys2Proof.Machine
end

section
/-! The bounds of the receive queue, the supply scale, the failure counts, the runs and the Peer Table (R19, R42, R92, R141,
R145, R159). -/

namespace Sys2Proof.Machine

namespace Node

/-- From `n` to `m` what the five bounds speak of stands. -/
structure BoundsStand (n m : Node) : Prop where
  queue : m.rx.queue = n.rx.queue
  scale : m.supplyScale = n.supplyScale
  exchanges : m.drive.failedExchanges = n.drive.failedExchanges
  ringFails : m.drive.ring.readFails = n.drive.ring.readFails
  tiltFails : m.drive.tilt.readFails = n.drive.tilt.readFails
  live : m.monitor.live = n.monitor.live
  stations : m.peers.entries.map (·.station) = n.peers.entries.map (·.station)

/-- From `n` to `m` each of the five bounds is kept. -/
structure KeepsBounds (n m : Node) : Prop where
  receive : n.ReceiveLaw → m.ReceiveLaw
  scale : n.ScaleLaw → m.ScaleLaw
  failure : n.FailureLaw → m.FailureLaw
  run : n.RunLaw → m.RunLaw
  entry : n.EntryLaw → m.EntryLaw

theorem KeepsBounds.refl (n : Node) : KeepsBounds n n := ⟨id, id, id, id, id⟩

theorem KeepsBounds.trans {s n m : Node} (h : KeepsBounds s n) (g : KeepsBounds n m) : KeepsBounds s m :=
  ⟨fun x => g.1 (h.1 x), fun x => g.2 (h.2 x), fun x => g.3 (h.3 x), fun x => g.4 (h.4 x), fun x => g.5 (h.5 x)⟩

theorem RunLaw.of_live {n m : Node} (h : n.RunLaw) (e : m.monitor.live = n.monitor.live) : m.RunLaw := fun c => by
  unfold liveRecord
  rw [e]
  exact h c

theorem BoundsStand.keeps {n m : Node} (h : BoundsStand n m) : KeepsBounds n m := by
  obtain ⟨hq, hs, hx, hr, ht, hl, he⟩ := h
  refine ⟨fun g => ?_, fun g => ?_, fun g => ?_, fun g => g.of_live hl, fun g => ?_⟩
  · unfold ReceiveLaw; rw [hq]; exact g
  · unfold ScaleLaw; rw [hs]; exact g
  · unfold FailureLaw; rw [hx, hr, ht]; exact g
  · unfold EntryLaw; rw [he]; exact g

theorem BoundsStand.refl (n : Node) : BoundsStand n n := ⟨rfl, rfl, rfl, rfl, rfl, rfl, rfl⟩

theorem BoundsStand.trans {s n m : Node} (h : BoundsStand s n) (g : BoundsStand n m) : BoundsStand s m :=
  ⟨g.1.trans h.1, g.2.trans h.2, g.3.trans h.3, g.4.trans h.4, g.5.trans h.5, g.6.trans h.6, g.7.trans h.7⟩

/-- An act that writes none of the blocks the bounds lie in, or of the drive side only the brakes. -/
theorem BoundsStand.of_fields {n m : Node} (rx : m.rx = n.rx := by simp) (scale : m.supplyScale = n.supplyScale := by simp)
    (drive : m.drive.links = n.drive.links := by simp) (monitor : m.monitor = n.monitor := by simp)
    (peers : m.peers = n.peers := by simp) : BoundsStand n m :=
  have hx := congrArg (fun d : Drive => d.failedExchanges) drive
  have hr := congrArg (fun d : Drive => d.ring.readFails) drive
  have ht := congrArg (fun d : Drive => d.tilt.readFails) drive
  ⟨by rw [rx], scale, hx, hr, ht, by rw [monitor], by rw [peers]⟩

/-! ### The smaller operations -/

theorem boundsStand_raise (k : FaultKind) (n : Node) : BoundsStand n (raise k n) := .of_fields

theorem boundsStand_raiseIf (b : Bool) (k : FaultKind) (n : Node) : BoundsStand n (raiseIf b k n) := .of_fields

theorem boundsStand_setAxisDrive {a : Axis} {d : AxisDrive} {n : Node} (h : d.readFails = (n.axisDrive a).readFails) :
    BoundsStand n (n.setAxisDrive a d) := by
  cases a
  · exact ⟨rfl, rfl, rfl, h, rfl, rfl, rfl⟩
  · exact ⟨rfl, rfl, rfl, rfl, h, rfl, rfl⟩

theorem boundsStand_putEntry {s : Nat} {e : Entry} (he : e.station = s) (n : Node) : BoundsStand n (putEntry s e n) := by
  refine ⟨rfl, rfl, rfl, rfl, rfl, rfl, ?_⟩
  show (n.peers.entries.map fun x => if x.station == s then e else x).map (·.station) = _
  rw [List.map_map]
  refine List.map_congr_left fun x _ => ?_
  dsimp only [Function.comp]
  split
  next hx => exact he.trans (by simpa using hx : x.station = s).symm
  · rfl

theorem boundsStand_build (n : Node) : BoundsStand n (build n) := by
  refine ⟨by simp, by simp, by simp, by simp, by simp, by simp, ?_⟩
  rw [build_peers]
  exact (boundsStand_putEntry (s := n.station) rfl n).stations

theorem entry_station {n : Node} {s : Nat} {e : Entry} (h : n.entry s = some e) : e.station = s := by
  simpa using List.find?_some h

theorem boundsStand_setFate (x : FrameFate) (n : Node) : BoundsStand n (setFate x n) := ⟨rfl, rfl, rfl, rfl, rfl, rfl, rfl⟩

theorem boundsStand_closeClear (f : List Byte) (n : Node) : BoundsStand n (closeClear f n) := by
  unfold closeClear
  dsimp only
  split
  · exact boundsStand_setFate _ _
  · exact .refl n

theorem liveRecord_setLiveRecord (c d : Fin 8) (r : LiveRecord) (n : Node) :
    (setLiveRecord c r n).liveRecord d = if c = d then r else n.liveRecord d := by
  unfold setLiveRecord liveRecord
  simp only [Vector.get_eq_getElem, Vector.getElem_set, Fin.val_inj]

/-- A record written with runs in their bounds keeps the bounds of all. -/
theorem keepsBounds_setLiveRecord {c : Fin 8} {r : LiveRecord} {n : Node}
    (hr : n.RunLaw → r.outRun ≤ 255 ∧ r.inRun ≤ 255 ∧ (r.outRun = 0 ∨ r.inRun = 0)) :
    KeepsBounds n (setLiveRecord c r n) := by
  refine ⟨id, id, id, fun h d => ?_, id⟩
  rw [liveRecord_setLiveRecord]
  split
  · exact hr h
  · exact h d

/-! ### The acts -/

theorem boundsStand_deliverHalt (n : Node) : BoundsStand n (deliverHalt n) := by
  obtain ⟨l, hrx⟩ := deliverHalt_rx n
  refine ⟨by rw [hrx], ?_, ?_, ?_, ?_, ?_, ?_⟩ <;>
    · unfold deliverHalt
      split
      · rfl
      · unfold takeHalt
        dsimp only
        split <;> simp

theorem boundsStand_entryStale (s : Nat) (n : Node) : BoundsStand n (entryStale s n) := by
  unfold entryStale
  split
  next e he =>
    split
    · refine boundsStand_putEntry ?_ n
      exact entry_station (e := e) he
    · exact .refl n
  · exact .refl n

theorem boundsStand_entryLost (s : Nat) (n : Node) : BoundsStand n (entryLost s n) := by
  unfold entryLost
  split
  next e he =>
    split
    · refine .trans (boundsStand_putEntry ?_ n) (boundsStand_raiseIf _ _ _)
      exact entry_station (e := e) he
    · exact .refl n
  · exact .refl n

theorem keepsBounds_trip (c : Fin 8) (n : Node) : KeepsBounds n (trip c n) := by
  unfold trip
  refine .trans (keepsBounds_setLiveRecord (c := c) (r := { n.liveRecord c with tripped := true }) (fun h => h c)) ?_
  refine (BoundsStand.trans ?_ (boundsStand_raiseIf _ _ _)).keeps
  dsimp only
  split
  · exact ⟨rfl, rfl, rfl, rfl, rfl, rfl, rfl⟩
  · exact .refl _

theorem keepsBounds_untrip (c : Fin 8) (n : Node) : KeepsBounds n (untrip c n) := by
  unfold untrip
  refine .trans (keepsBounds_setLiveRecord (c := c) (r := { n.liveRecord c with tripped := false }) (fun h => h c)) ?_
  dsimp only
  split
  · exact BoundsStand.keeps ⟨rfl, rfl, rfl, rfl, rfl, rfl, rfl⟩
  · exact .refl _

theorem boundsStand_failHead (r : CueReason) (n : Node) : BoundsStand n (failHead r n) := .of_fields

theorem keepsBounds_takeDue (d : Due) (n : Node) : KeepsBounds n (takeDue d n) := by
  unfold takeDue
  split
  · refine .trans (BoundsStand.keeps ⟨rfl, rfl, rfl, rfl, rfl, rfl, rfl⟩ : KeepsBounds n (dropDue d n)) ?_
    generalize dropDue d n = m
    cases d with
    | statusPeriod => exact (boundsStand_build m).keeps
    | peerStale s => exact (boundsStand_entryStale s m).keeps
    | peerLost s => exact (boundsStand_entryLost s m).keeps
    | arm =>
      show KeepsBounds m (expireArm m)
      unfold expireArm
      split
      · exact (BoundsStand.of_fields).keeps
      · exact .refl m
    | permit => exact BoundsStand.keeps ⟨rfl, rfl, rfl, rfl, rfl, rfl, rfl⟩
    | brake a =>
      show KeepsBounds m (expireBrake a m)
      unfold expireBrake
      split
      · refine (BoundsStand.trans ?_ (boundsStand_raise _ _)).keeps
        exact boundsStand_setAxisDrive rfl
      · exact .refl m
    | recheck =>
      show KeepsBounds m (recheck m)
      unfold recheck
      refine (BoundsStand.trans ?_ (boundsStand_raiseIf _ _ _)).keeps
      exact ⟨rfl, rfl, rfl, rfl, rfl, rfl, rfl⟩
    | pinch a => exact (BoundsStand.trans .of_fields (boundsStand_raise _ _)).keeps
    | settle =>
      show KeepsBounds m (reachSettle m)
      unfold reachSettle
      split
      · exact (BoundsStand.of_fields).keeps
      · exact .refl m
    | trip c => exact keepsBounds_trip c m
    | untrip c => exact keepsBounds_untrip c m
  · exact .refl n

theorem ageEntry_station (n : Node) (e : Entry) : (n.ageEntry e).1.station = e.station := by
  unfold ageEntry
  dsimp only
  (repeat' split) <;> rfl

theorem boundsStand_agePeers (n : Node) : BoundsStand n (agePeers n) := by
  unfold agePeers
  split
  · refine ⟨rfl, rfl, rfl, rfl, rfl, rfl, ?_⟩
    dsimp only
    rw [List.map_map]
    exact List.map_congr_left fun e _ => ageEntry_station n e
  · exact .refl n

theorem boundsStand_planAxis (a : Axis) (n : Node) : BoundsStand n (planAxis a n) := by
  obtain ⟨p, d, he, -⟩ := planAxis_eq a n
  rw [he]
  exact .of_fields

theorem keepsBounds_rescale (n : Node) : KeepsBounds n (rescale n) := by
  unfold rescale
  split
  · exact ⟨id, fun _ => supplyScaleOf_bounds _ _, id, id, id⟩
  · exact .refl n

theorem boundsStand_superviseBrake (a : Axis) (n : Node) : BoundsStand n (superviseBrake a n) := by
  unfold superviseBrake
  dsimp only
  split
  · exact .refl n
  · exact boundsStand_raiseIf _ _ _
  · split
    · exact boundsStand_raiseIf _ _ _
    · split
      · exact ⟨rfl, rfl, rfl, rfl, rfl, rfl, rfl⟩
      · exact boundsStand_setAxisDrive rfl

/-- The timers and counts, lowered or marked, are none of the bounds. -/
theorem boundsStand_timers (n : Node) : BoundsStand n (lowerStatusTimer n) ∧ BoundsStand n (lowerPermitTimer n)
    ∧ BoundsStand n (lowerArmTimer n) ∧ BoundsStand n (lowerRecheckTimer n) ∧ BoundsStand n (countSettle n) := by
  have same (m : Node) (h : m.rx = n.rx ∧ m.supplyScale = n.supplyScale ∧ m.drive = n.drive ∧ m.monitor = n.monitor
      ∧ m.peers.entries = n.peers.entries) : BoundsStand n m := by
    obtain ⟨h1, h2, h3, h4, h5⟩ := h
    exact ⟨by rw [h1], h2, by rw [h3], by rw [h3], by rw [h3], by rw [h4], by rw [h5]⟩
  refine ⟨same _ ?_, same _ ?_, same _ ?_, same _ ?_, same _ ?_⟩
  · unfold lowerStatusTimer; (repeat' split) <;> exact ⟨rfl, rfl, rfl, rfl, rfl⟩
  · unfold lowerPermitTimer; (repeat' split) <;> exact ⟨rfl, rfl, rfl, rfl, rfl⟩
  · unfold lowerArmTimer; (repeat' split) <;> exact ⟨rfl, rfl, rfl, rfl, rfl⟩
  · unfold lowerRecheckTimer; (repeat' split) <;> exact ⟨rfl, rfl, rfl, rfl, rfl⟩
  · unfold countSettle; (repeat' split) <;> exact ⟨rfl, rfl, rfl, rfl, rfl⟩

theorem keepsBounds_runBlock {b : TickBlock} (hb : b.IsBlock = true) (n : Node) : KeepsBounds n (runBlock b n) := by
  obtain ⟨hstatus, hpermit, harm, hrecheck, hsettle⟩ := boundsStand_timers n
  cases b with
  | expiry d => cases hb
  | conversion r => cases hb
  | planners =>
    exact (keepsBounds_rescale n).trans ((boundsStand_planAxis _ _).trans (boundsStand_planAxis _ _)).keeps
  | clashAge => exact BoundsStand.keeps ⟨rfl, rfl, rfl, rfl, rfl, rfl, rfl⟩
  | peerAging => exact (boundsStand_agePeers n).keeps
  | statusTimer => exact hstatus.keeps
  | permitTimer => exact hpermit.keeps
  | armTimer => exact harm.keeps
  | settleCount => exact hsettle.keeps
  | skewCheck => exact (boundsStand_raiseIf _ _ _).keeps
  | brakeTimers => exact ((boundsStand_superviseBrake .ring n).trans (boundsStand_superviseBrake .tilt _)).keeps
  | towLogic =>
    show KeepsBounds n (decideTow n)
    unfold decideTow
    split
    · split
      · exact (BoundsStand.of_fields (by simp [enterTowed]) (by simp [enterTowed]) (by simp [enterTowed]) (by simp [enterTowed])
          (by simp [enterTowed])).keeps
      · exact (boundsStand_raise _ _).keeps
    · exact .refl n
  | tiltDriveCheck => exact (boundsStand_raiseIf _ _ _).keeps
  | limitCheck => exact (boundsStand_raiseIf _ _ _).keeps
  | recheckTimer => exact hrecheck.keeps
  | monitorTurn => exact BoundsStand.keeps ⟨rfl, rfl, rfl, rfl, rfl, rfl, rfl⟩
  | followCheck => exact (boundsStand_raiseIf _ _ _).keeps
  | exchange => exact BoundsStand.keeps ⟨rfl, rfl, rfl, rfl, rfl, rfl, rfl⟩

theorem keepsBounds_completeExchange (reply : Option DriveReply) (n : Node) : KeepsBounds n (completeExchange reply n) := by
  have failed : KeepsBounds n { n with drive := { n.drive with
      exchanging := false, failedExchanges := min 2 (n.drive.failedExchanges + 1) } } :=
    ⟨id, id, fun h => ⟨min_le_left _ _, h.2⟩, id, id⟩
  unfold completeExchange
  dsimp only
  split
  · split
    · exact failed
    · split
      · exact ⟨id, id, fun h => ⟨Nat.zero_le _, h.2⟩, id, id⟩
      · exact failed
  · exact .refl n

theorem keepsBounds_completeRead (a : Axis) (v : Option Int) (n : Node) : KeepsBounds n (completeRead a v n) := by
  have wrote (d : AxisDrive) (hd : d.readFails ≤ 2) : KeepsBounds n (n.setAxisDrive a d) := by
    refine ⟨fun h => ?_, fun h => ?_, fun ⟨h1, h2, h3⟩ => ?_, fun h => h.of_live (by simp), fun h => ?_⟩
    · unfold ReceiveLaw at h ⊢; simpa using h
    · unfold ScaleLaw at h ⊢; simpa using h
    · cases a
      · exact ⟨h1, hd, h3⟩
      · exact ⟨h1, h2, hd⟩
    · unfold EntryLaw at h ⊢; simpa using h
  unfold completeRead
  dsimp only
  split
  · split
    · exact wrote _ (Nat.zero_le _)
    · refine (wrote { n.axisDrive a with reading := false, readFails := min 2 ((n.axisDrive a).readFails + 1) }
        (min_le_left _ _)).trans (BoundsStand.keeps ?_)
      exact .trans (by exact ⟨rfl, rfl, rfl, rfl, rfl, rfl, rfl⟩) (boundsStand_raiseIf _ _ _)
  · exact .refl n

theorem keepsBounds_convert (r : BitVec 10) (n : Node) : KeepsBounds n (convert r n) := by
  unfold convert
  split
  · split
    · dsimp only
      refine .trans (keepsBounds_setLiveRecord fun h => ?_) (BoundsStand.keeps ⟨rfl, rfl, rfl, rfl, rfl, rfl, rfl⟩)
      dsimp only
      split
      · exact ⟨min_le_left _ _, Nat.zero_le _, .inr rfl⟩
      · exact ⟨Nat.zero_le _, min_le_left _ _, .inl rfl⟩
    · exact .refl n
  · exact .refl n

theorem boundsStand_feedbackChanged (a : Axis) (n : Node) : BoundsStand n (feedbackChanged a n) := by
  unfold feedbackChanged
  split
  · exact .refl n
  · split
    · exact .of_fields
    · exact .refl n
  · split
    · exact .refl n
    · exact boundsStand_raise _ _

theorem boundsStand_reportInput (i : Fin 8) (n : Node) : BoundsStand n (reportInput i n) := by
  unfold reportInput
  split
  · exact boundsStand_raiseIf _ _ _
  · exact boundsStand_raiseIf _ _ _
  · exact boundsStand_raiseIf _ _ _
  · exact boundsStand_feedbackChanged _ _
  · exact boundsStand_feedbackChanged _ _
  · exact .refl _

theorem boundsStand_changeLevel (i : Fin 8) (l : Bool) (n : Node) : BoundsStand n (changeLevel i l n) := by
  unfold changeLevel
  split
  · exact .refl n
  · refine .trans ?_ (boundsStand_reportInput i _)
    exact ⟨rfl, rfl, rfl, rfl, rfl, rfl, rfl⟩

/-- The receive queue takes a ninth frame never (R19). -/
theorem keepsBounds_judge (own : Bool) (n : Node) : KeepsBounds n (judge own n) := by
  have counted (c : Counters) : KeepsBounds n { n with counters := c } :=
    BoundsStand.keeps ⟨rfl, rfl, rfl, rfl, rfl, rfl, rfl⟩
  unfold judge
  dsimp only
  split
  · split
    · exact .refl n
    · exact counted _
  split
  · split
    · exact .refl n
    · exact counted _
  split
  · exact .refl n
  split
  · unfold addressClash
    refine ((boundsStand_raise .address n).trans ?_).keeps
    exact ⟨rfl, rfl, rfl, rfl, rfl, rfl, rfl⟩
  split
  · exact counted _
  split
  · exact counted _
  · exact counted _
  · split
    · exact BoundsStand.keeps ⟨rfl, rfl, rfl, rfl, rfl, rfl, rfl⟩
    · unfold enqueue
      split
      next hlen => exact ⟨fun _ => by
          unfold ReceiveLaw
          simpa using Nat.succ_le_of_lt hlen, id, id, id, id⟩
      · exact counted _

theorem keepsBounds_frameEnd (bytes : List Byte) (part : Bool) (n : Node) : KeepsBounds n (frameEnd bytes part n) := by
  unfold frameEnd
  split
  · exact .refl n
  · exact BoundsStand.keeps ⟨rfl, rfl, rfl, rfl, rfl, rfl, rfl⟩
  · refine .trans (BoundsStand.keeps ?_) (keepsBounds_judge _ _)
    exact ⟨rfl, rfl, rfl, rfl, rfl, rfl, rfl⟩

theorem keepsBounds_frameComplete (n : Node) : KeepsBounds n (frameComplete n) := by
  unfold frameComplete
  split
  · exact .refl n
  · refine ⟨fun h => ?_, id, id, id, id⟩
    show n.rx.queue.tail.length ≤ 8
    rw [List.length_tail]
    exact (Nat.sub_le _ _).trans h

theorem boundsStand_takeStatus (s : Nat) (f : List Byte) (n : Node) : BoundsStand n (takeStatus s f n) := by
  have h : BoundsStand n (heardStatus s f n) :=
    (boundsStand_putEntry (s := s) rfl n).trans ⟨rfl, rfl, rfl, rfl, rfl, rfl, rfl⟩
  rw [takeStatus_eq]
  split
  · exact h
  · exact h.trans (boundsStand_raiseIf _ _ _)

theorem boundsStand_judgeCue (r : CueRecord) (n : Node) : BoundsStand n (judgeCue r n) := by
  unfold judgeCue
  dsimp only
  split
  · exact .of_fields
  · split
    · exact .of_fields
    · exact .of_fields

theorem boundsStand_cancelCue (id : CueId) (n : Node) : BoundsStand n (cancelCue id n) := by
  rcases cancelCue_cases id n with he | he | ⟨c, rest, -, -, -, he⟩ <;> rw [he]
  · exact .refl n
  · rcases cancelHead_cases n with he | ⟨he, -⟩ | ⟨he, -⟩ | ⟨he, -⟩ <;> rw [he]
    · exact .refl n
    all_goals exact .of_fields
  · exact .of_fields

theorem boundsStand_clearFaults (n : Node) : BoundsStand n (clearFaults n) := by
  unfold clearFaults
  split
  · dsimp only
    split <;> split <;> exact ⟨by simp, by simp, by simp, by simp, by simp, by simp, by simp⟩
  · exact .refl n

theorem boundsStand_clearTow (n : Node) : BoundsStand n (clearTow n) := by
  refine ⟨?_, by simp, by simp, by simp, by simp, by simp, by simp⟩
  unfold clearTow
  split <;> simp

theorem keepsBounds_powerOn (straps : BitVec 5) (pins : BitVec 8) (n : Node) : KeepsBounds n (powerOn straps pins) where
  receive _ := by show ([] : List (List Byte)).length ≤ 8; decide
  scale _ := ⟨by show 32 ≤ 256; decide, by show 256 ≤ 256; decide⟩
  failure _ := ⟨Nat.zero_le _, Nat.zero_le _, Nat.zero_le _⟩
  run _ c := by
    have : (powerOn straps pins).liveRecord c = LiveRecord.initial := by
      simp [liveRecord, powerOn, Monitor.initial, Vector.get_eq_getElem]
    rw [this]
    exact ⟨Nat.zero_le _, Nat.zero_le _, .inl rfl⟩
  entry _ := by simp [EntryLaw, powerOn, PeerTable.initial]

/-- A soft reset returns what the bounds speak of to its start, but for the held failure counts, which it makes 0 (R157). -/
theorem keepsBounds_softReset (n : Node) : KeepsBounds n (softReset n) where
  receive _ := by show ([] : List (List Byte)).length ≤ 8; decide
  scale _ := ⟨by show 32 ≤ 256; decide, by show 256 ≤ 256; decide⟩
  failure _ := ⟨Nat.zero_le _, Nat.zero_le _, Nat.zero_le _⟩
  run _ c := by
    have : (softReset n).liveRecord c = LiveRecord.initial := by
      simp [liveRecord, softReset, Monitor.initial, Vector.get_eq_getElem]
    rw [this]
    exact ⟨Nat.zero_le _, Nat.zero_le _, .inl rfl⟩
  entry _ := by simp [EntryLaw, softReset, PeerTable.initial]

theorem ringMapOf_fitted_sorted (l : List Byte) : (ringMapOf l).fitted.Pairwise (· < ·) :=
  List.pairwise_lt_range.filter _

theorem startSupervision_readFails (a b : Axis) (n : Node) :
    ((startSupervision a n).axisDrive b).readFails = (n.axisDrive b).readFails := by
  unfold startSupervision
  split <;> cases a <;> cases b <;> rfl

/-- The start forms the Peer Table from the fitted stations, in ascending order (R42, R43). -/
theorem keepsBounds_configured (n : Node) : KeepsBounds n n.configured := by
  have hfails (b : Axis) : (n.configured.axisDrive b).readFails = (n.axisDrive b).readFails := by
    show ((startSupervision .tilt (startSupervision .ring _)).axisDrive b).readFails = _
    rw [startSupervision_readFails, startSupervision_readFails]
    cases b <;> simp [axisDrive, startPlanner]
  have hexch : n.configured.drive.failedExchanges = n.drive.failedExchanges := by
    have (a : Axis) (m : Node) : (startSupervision a m).drive.failedExchanges = m.drive.failedExchanges := by
      unfold startSupervision
      split <;> cases a <;> rfl
    show (startSupervision .tilt (startSupervision .ring _)).drive.failedExchanges = _
    rw [this, this]
    simp [startPlanner]
  refine ⟨fun h => ?_, fun h => ?_, fun ⟨_, h2, h3⟩ => ⟨by rw [hexch]; assumption, (hfails .ring).le.trans h2, (hfails .tilt).le.trans h3⟩,
    fun h => h.of_live ?_, fun _ => ?_⟩
  · unfold ReceiveLaw at h ⊢
    simpa [configured, refreshAttention, startSupervision, startPlanner] using h
  · unfold ScaleLaw at h ⊢
    simpa [configured, refreshAttention, startSupervision, startPlanner] using h
  · simp [configured, refreshAttention, startSupervision, startPlanner]
  · have : n.configured.peers.entries.map (·.station) = (ringMapOf n.live).fitted := by
      simp only [configured, refreshAttention, startSupervision, startPlanner, setAxisDrive_peers, setPlanner_peers,
        setPhase_peers, List.map_map]
      refine List.map_id'' (fun s => ?_) _
      dsimp only [Function.comp]
      split <;> rfl
    unfold EntryLaw
    rw [this]
    exact ringMapOf_fitted_sorted _

theorem keepsBounds_configReadComplete (bytes : List Byte) (n : Node) : KeepsBounds n (configReadComplete bytes n) := by
  have hread : KeepsBounds n (readIn bytes n) := BoundsStand.keeps ⟨rfl, rfl, rfl, rfl, rfl, rfl, rfl⟩
  rcases configReadComplete_cases bytes n with he | ⟨-, ⟨-, he⟩ | ⟨-, he⟩⟩ <;> rw [he]
  · exact .refl n
  · rw [startConfigured_eq]
    refine (hread.trans (keepsBounds_configured _)).trans (BoundsStand.trans ?_ (boundsStand_raiseIf _ _ _)).keeps
    unfold haltForKeptFaults
    split
    · exact .refl _
    · exact .of_fields
  · refine hread.trans ⟨fun h => ?_, fun h => ?_, fun h => ?_, fun h => h.of_live ?_, fun _ => ?_⟩
    · unfold ReceiveLaw at h ⊢; simpa [startUnconfigured, refreshAttention] using h
    · unfold ScaleLaw at h ⊢; simpa [startUnconfigured, refreshAttention] using h
    · unfold FailureLaw at h ⊢; simpa [startUnconfigured, refreshAttention] using h
    · simp [startUnconfigured, refreshAttention]
    · simp [EntryLaw, startUnconfigured, refreshAttention]

/-- Everything a step is made of keeps the bounds. -/
theorem keepsBounds_closed (s : Node) : StepClosed (KeepsBounds s) where
  consequence _ c n _ h := h.trans (BoundsStand.of_fields).keeps
  build n h := h.trans (boundsStand_build n).keeps
  mark _ _ h := h.trans (BoundsStand.keeps ⟨rfl, rfl, rfl, rfl, rfl, rfl, rfl⟩)
  pend _ _ h := h.trans (BoundsStand.keeps ⟨rfl, rfl, rfl, rfl, rfl, rfl, rfl⟩)
  allow _ h := h.trans (BoundsStand.keeps ⟨rfl, rfl, rfl, rfl, rfl, rfl, rfl⟩)
  deliver n h := h.trans (boundsStand_deliverHalt n).keeps
  due d n h := h.trans (keepsBounds_takeDue d n)
  block b n hd hc h := h.trans (keepsBounds_runBlock (by cases b <;> first | rfl | exact absurd rfl (hd _) | exact absurd rfl (hc _)) n)
  powerOn straps pins := keepsBounds_powerOn straps pins s
  holdReset _ h := h.trans (BoundsStand.keeps ⟨rfl, rfl, rfl, rfl, rfl, rfl, rfl⟩)
  configReadStart n h := h.trans <| by
    unfold Node.configReadStart
    split
    · exact BoundsStand.keeps ⟨rfl, rfl, rfl, rfl, rfl, rfl, rfl⟩
    · exact .refl n
  configReadComplete bytes n h := h.trans (keepsBounds_configReadComplete bytes n)
  completeExchange r n h := h.trans (keepsBounds_completeExchange r n)
  completeRead a v n h := h.trans (keepsBounds_completeRead a v n)
  convert r n h := h.trans (keepsBounds_convert r n)
  changeLevel i l n h := h.trans (boundsStand_changeLevel i l n).keeps
  frameEnd b p n h := h.trans (keepsBounds_frameEnd b p n)
  frameComplete n h := h.trans (keepsBounds_frameComplete n)
  status n h := h.trans <| withHead_induct (P := KeepsBounds n) (fun f _ => by
    dsimp only
    split
    · exact (boundsStand_setFate _ _).keeps
    · split
      · exact ((boundsStand_takeStatus _ _ _).trans (boundsStand_setFate _ _)).keeps
      · exact (boundsStand_setFate _ _).keeps) (.refl n)
  cue n h := h.trans <| withHead_induct (P := KeepsBounds n) (fun f _ => by
    split
    · exact (boundsStand_setFate _ _).keeps
    · split
      · exact (boundsStand_setFate _ _).keeps
      · exact ((boundsStand_judgeCue _ _).trans (boundsStand_setFate _ _)).keeps) (.refl n)
  permit n h := h.trans <| withHead_induct (P := KeepsBounds n)
    (fun _ _ => BoundsStand.keeps ⟨rfl, rfl, rfl, rfl, rfl, rfl, rfl⟩) (.refl n)
  clearLatch n h := h.trans <| withHead_induct (P := KeepsBounds n) (fun f _ => by
    dsimp only
    split
    · exact .refl n
    · refine (BoundsStand.trans ?_ (boundsStand_closeClear _ _)).keeps
      exact ⟨rfl, rfl, rfl, rfl, rfl, rfl, rfl⟩) (.refl n)
  clearFault n h := h.trans <| withHead_induct (P := KeepsBounds n) (fun f _ => by
    dsimp only
    split
    · exact .refl n
    · refine ((boundsStand_clearFaults n).trans (.trans ?_ (boundsStand_closeClear _ _))).keeps
      exact ⟨rfl, rfl, rfl, rfl, rfl, rfl, rfl⟩) (.refl n)
  clearTow n h := h.trans <| withHead_induct (P := KeepsBounds n) (fun f _ => by
    dsimp only
    split
    · exact .refl n
    · refine ((boundsStand_clearTow n).trans (.trans ?_ (boundsStand_closeClear _ _))).keeps
      exact ⟨rfl, rfl, rfl, rfl, rfl, rfl, rfl⟩) (.refl n)
  cancel n h := h.trans <| withHead_induct (P := KeepsBounds n)
    (fun f _ => ((boundsStand_cancelCue _ n).trans (boundsStand_setFate _ _)).keeps) (.refl n)
  inquire n h := h.trans <| withHead_induct (P := KeepsBounds n) (fun f _ => by
    dsimp only
    split
    · split <;> exact BoundsStand.keeps ⟨rfl, rfl, rfl, rfl, rfl, rfl, rfl⟩
    · exact BoundsStand.keeps ⟨rfl, rfl, rfl, rfl, rfl, rfl, rfl⟩) (.refl n)
  straps _ _ h := h.trans (BoundsStand.keeps ⟨rfl, rfl, rfl, rfl, rfl, rfl, rfl⟩)
  reset n h := h.trans <| withHead_induct (P := KeepsBounds n) (fun f _ => by
    split
    · exact BoundsStand.keeps ⟨rfl, rfl, rfl, rfl, rfl, rfl, rfl⟩
    · exact keepsBounds_softReset n) (.refl n)
  arbiterStart q n h := h.trans <| by
    unfold Node.arbiterStart
    split
    · exact .refl n
    dsimp only
    split
    · exact BoundsStand.keeps ⟨rfl, rfl, rfl, rfl, rfl, rfl, rfl⟩
    split
    · exact BoundsStand.keeps ⟨rfl, rfl, rfl, rfl, rfl, rfl, rfl⟩
    next k _ => cases k <;> exact BoundsStand.keeps ⟨rfl, rfl, rfl, rfl, rfl, rfl, rfl⟩
  transmitSuccess n h := h.trans <| by
    unfold Node.transmitSuccess
    split
    next k _ _ => cases k <;> exact BoundsStand.keeps ⟨rfl, rfl, rfl, rfl, rfl, rfl, rfl⟩
    · exact .refl n
  collision c n h := h.trans <| by
    unfold Node.collision
    split
    next k _ _ => cases k <;> exact BoundsStand.keeps ⟨rfl, rfl, rfl, rfl, rfl, rfl, rfl⟩
    · exact .refl n
  jamEnd n h := h.trans <| by
    have back (k : SlotKind) (m : Node) : KeepsBounds m (backOff k m) := by
      cases k <;> exact BoundsStand.keeps ⟨rfl, rfl, rfl, rfl, rfl, rfl, rfl⟩
    have release (k : SlotKind) (m : Node) : KeepsBounds m (releaseSlot k m) := by
      cases k <;> exact BoundsStand.keeps ⟨rfl, rfl, rfl, rfl, rfl, rfl, rfl⟩
    unfold Node.jamEnd
    split
    · split
      · exact back _ _
      split
      · exact release _ _
      split
      · refine .trans (BoundsStand.keeps ?_) (release _ _)
        exact ⟨rfl, rfl, rfl, rfl, rfl, rfl, rfl⟩
      · exact back _ _
    · exact .refl n
  backoffEnd k n h := h.trans <| by
    unfold Node.backoffEnd
    split
    · cases k <;> exact BoundsStand.keeps ⟨rfl, rfl, rfl, rfl, rfl, rfl, rfl⟩
    · exact .refl n
  burstStart n h := h.trans <| by
    unfold Node.burstStart
    split
    · exact BoundsStand.keeps ⟨rfl, rfl, rfl, rfl, rfl, rfl, rfl⟩
    · exact .refl n
  startByteFound n h := h.trans <| by
    unfold Node.startByteFound
    split
    · exact BoundsStand.keeps ⟨rfl, rfl, rfl, rfl, rfl, rfl, rfl⟩
    · exact .refl n
  alterLiveCopy a v n h := h.trans <| by
    obtain ⟨l, e⟩ := alterLiveCopy_eq a v n
    rw [e]
    exact BoundsStand.keeps ⟨rfl, rfl, rfl, rfl, rfl, rfl, rfl⟩

end Node

/-- Settles O55: each bound by induction over the acts of a step. -/
theorem boundsAreKept : Obligations.BoundsAreKept := by
  intro c s t ht
  obtain ⟨h1, h2, h3, h4, h5⟩ := (Node.keepsBounds_closed s.node).exec c ht (.refl s.node)
  exact ⟨Node.cueLaw_closed.exec_all (fun a v n h => by
    obtain ⟨l, e⟩ := Node.alterLiveCopy_eq a v n; rw [e]; exact h) ht, h1, h2, h3, h4, h5⟩

end Sys2Proof.Machine
end

section
/-! A hold cause that comes or goes is put in step within the step, and takes MOVING to HOLDING or back (R112, R114, R115). -/

namespace Sys2Proof.Machine

/-- A set of hold causes is known by its members. -/
theorem HoldSet.ext_has {g h : HoldSet} (H : ∀ c, g.has c = h.has c) : g = h := by
  refine BitVec.eq_of_getLsbD_eq fun i hi => ?_
  obtain rfl | rfl | rfl | rfl | rfl : i = 0 ∨ i = 1 ∨ i = 2 ∨ i = 3 ∨ i = 4 := by omega
  · exact H .permit
  · exact H .peer
  · exact H .personnel
  · exact H .stowed
  · exact H .monitor

theorem HoldSet.has_with (g : HoldSet) (d c : HoldCause) :
    HoldSet.has (g ||| (1 <<< d.bit)) c = (g.has c || decide (d = c)) := by
  have := HoldSet.has_when d true c
  rw [Bool.true_and] at this
  rw [HoldSet.has_or, ← this]
  rfl

theorem HoldSet.has_without (g : HoldSet) (d c : HoldCause) :
    HoldSet.has (g &&& ~~~((1 : HoldSet) <<< d.bit)) c = (g.has c && !decide (d = c)) := by
  have h := HoldSet.has_when d true c
  rw [Bool.true_and] at h
  rw [← h]
  unfold HoldSet.has
  rw [BitVec.getLsbD_and, BitVec.getLsbD_not, decide_eq_true (by cases c <;> decide), Bool.true_and]
  rfl

namespace Node

/-- The condition of a hold cause (R112). -/
def wants (n : Node) : HoldCause → Bool
  | .permit => n.cue.permit.isNone
  | .peer => n.inService && n.peerSilent
  | .personnel => n.inService && !n.deckClear
  | .stowed => n.inService && (!n.seatsStowed && n.headMoves .tilt)
  | .monitor => n.inService && n.trippedWith actionHold

theorem wantedHolds_has (n : Node) (c : HoldCause) : n.wantedHolds.has c = n.wants c := by
  cases hs : n.inService <;> cases c <;> simp [wantedHolds, hs, HoldSet.has_or, HoldSet.has_when, wants]

/-- At rest each cause is present exactly while its condition holds. -/
theorem holds_has_of_calm {n : Node} (h : n.Calm) (c : HoldCause) : n.cue.holds.has c = n.wants c := by
  rw [holds_of_calm h, wantedHolds_has]

/-- The brakes that follow their command in `n`. -/
def BrakesFollow (n : Node) : Prop := ∀ a, (n.axisDrive a).released = n.brakeCommand a

theorem brakesFollow_of_calm {n : Node} (h : n.Calm) : n.BrakesFollow := released_of_calm h

/-- With the brakes in step the hold causes come next. -/
theorem nextConsequence_of_brakes {n : Node} (hb : n.BrakesFollow) (tick : Bool) : n.nextConsequence tick =
    if n.wantedHolds != n.cue.holds then some .holds else n.phaseConsequence tick := by
  have hring : n.brakeCommand .ring = n.drive.ring.released := (hb .ring).symm
  have htilt : n.brakeCommand .tilt = n.drive.tilt.released := (hb .tilt).symm
  unfold nextConsequence
  rw [hring, htilt]
  simp

theorem calm_of_brakes {n : Node} (hb : n.BrakesFollow) (hh : n.wantedHolds = n.cue.holds)
    (hp : n.phaseConsequence false = none) : n.Calm := by
  rw [Calm, nextConsequence_of_brakes hb, hh, hp]
  simp

/-- Hold causes out of step are written first (R112). -/
theorem settled_holds {n : Node} (hb : n.BrakesFollow) (hw : n.wantedHolds ≠ n.cue.holds) (hp : n.cue.phase ≠ .starting) :
    settled false n =
      settled false { n with cue := { n.cue with holds := n.wantedHolds }, statusEvent := true } := by
  rw [settled_next (c := .holds) (by rw [nextConsequence_of_brakes hb, if_pos (by simpa using hw)])]
  show settled false (setHolds _ _) = _
  unfold setHolds note
  rw [if_neg hw.symm, if_neg hp]

/-- A cause whose condition has come to hold joins the set, and takes MOVING to HOLDING (R112, R114). -/
theorem settled_withCause {n : Node} {h : HoldCause} (hb : n.BrakesFollow) (hp : n.cue.phase ≠ .starting)
    (hothers : ∀ c, c ≠ h → n.wants c = n.cue.holds.has c) (hin : n.wants h = true) (hout : n.cue.holds.has h = false)
    (hcalm : (n.withCause h).Calm) : settled false n = { n.withCause h with statusEvent := true } := by
  have hset : n.wantedHolds = n.cue.holds ||| (1 <<< h.bit) := HoldSet.ext_has fun c => by
    rw [wantedHolds_has, HoldSet.has_with]
    by_cases hc : h = c
    · subst hc; simp [hin]
    · simp [hothers c (Ne.symm hc), hc]
  have hne : n.wantedHolds ≠ n.cue.holds := fun e => by
    have := (wantedHolds_has n h).symm.trans (congrArg (HoldSet.has · h) e)
    rw [hin] at this
    exact absurd (this.trans hout) (by decide)
  rw [settled_holds hb hne hp, hset]
  set m : Node := { n with cue := { n.cue with holds := n.cue.holds ||| (1 <<< h.bit) }, statusEvent := true } with hm
  have hstep : m.wantedHolds = m.cue.holds := hset
  by_cases hmov : n.cue.phase = .moving
  · have hzero : m.cue.holds ≠ 0 := fun e => by
      have := congrArg (HoldSet.has · h) e
      simp only [hm, HoldSet.has_with] at this
      simp only [decide_true, Bool.or_true] at this
      exact absurd this (by cases h <;> decide)
    have hnext : m.nextConsequence false = some .hold := by
      rw [nextConsequence_of_brakes (n := m) hb, if_neg (by simp [hstep])]
      unfold phaseConsequence
      rw [show m.cue.phase = .moving from hmov]
      exact if_pos (by simpa using hzero)
    have he : applyConsequence .hold m = { n.withCause h with statusEvent := true } := by
      simp [applyConsequence, setPhase, note, withCause, hmov, hm]
    rw [settled_next hnext, he]
    exact settled_of_none hcalm
  · have he : m = { n.withCause h with statusEvent := true } := by simp [withCause, hmov, hm]
    rw [he]
    exact settled_of_none hcalm

/-- A cause whose condition has ceased leaves the set, and a held move resumes once nothing holds it (R112, R115). -/
theorem settled_withoutCause {n : Node} {h : HoldCause} (hb : n.BrakesFollow) (hp : n.cue.phase ≠ .starting)
    (hothers : ∀ c, c ≠ h → n.wants c = n.cue.holds.has c) (hout : n.wants h = false) (hin : n.cue.holds.has h = true)
    (hcalm : (n.withoutCause h).Calm) : settled false n = { n.withoutCause h with statusEvent := true } := by
  have hset : n.wantedHolds = n.cue.holds &&& ~~~((1 : HoldSet) <<< h.bit) := HoldSet.ext_has fun c => by
    rw [wantedHolds_has, HoldSet.has_without]
    by_cases hc : h = c
    · subst hc; simp [hout]
    · simp [hothers c (Ne.symm hc), hc]
  have hne : n.wantedHolds ≠ n.cue.holds := fun e => by
    have := (wantedHolds_has n h).symm.trans (congrArg (HoldSet.has · h) e)
    rw [hout] at this
    exact absurd (this.trans hin) (by decide)
  rw [settled_holds hb hne hp, hset]
  set m : Node := { n with cue := { n.cue with holds := n.cue.holds &&& ~~~((1 : HoldSet) <<< h.bit) }, statusEvent := true }
    with hm
  have hstep : m.wantedHolds = m.cue.holds := hset
  by_cases hres : n.cue.phase = .holding ∧ m.cue.holds = 0 ∧ n.allFresh = true ∧ n.cue.permit.isSome = true
  · obtain ⟨hhold, hzero, hfresh, hpermit⟩ := hres
    have hnext : m.nextConsequence false = some .resume := by
      rw [nextConsequence_of_brakes (n := m) hb, if_neg (by simp [hstep])]
      unfold phaseConsequence
      rw [show m.cue.phase = .holding from hhold]
      exact if_pos (by
        rw [hzero, show m.allFresh = true from hfresh, show m.cue.permit.isSome = true from hpermit]; rfl)
    have he : applyConsequence .resume m = { n.withoutCause h with statusEvent := true } := by
      have hzero' : n.cue.holds &&& ~~~((1 : HoldSet) <<< h.bit) = 0 := hzero
      unfold withoutCause
      simp only [applyConsequence, setPhase, note, hm, hhold, hfresh, hpermit, hzero']
      simp
    rw [settled_next hnext, he]
    exact settled_of_none hcalm
  · have he : m = { n.withoutCause h with statusEvent := true } := by
      have hno : (decide (n.cue.phase = .holding) && decide (n.cue.holds &&& ~~~((1 : HoldSet) <<< h.bit) = 0) && n.allFresh
          && n.cue.permit.isSome) = false := by
        rw [Bool.eq_false_iff]
        intro hall
        simp only [Bool.and_eq_true, decide_eq_true_eq] at hall
        exact hres ⟨hall.1.1.1, hall.1.1.2, hall.1.2, hall.2⟩
      unfold withoutCause
      simp only [hno, hm]
      simp
    rw [he]
    exact settled_of_none hcalm

/-- The step of a mark that a tick has set. -/
theorem takeDue_of_mem {d : Due} {n : Node} (h : d ∈ n.due) : takeDue d n = dueEffect d (dropDue d n) :=
  if_pos (by simpa using h)

theorem dropDue_eq (d : Due) (n : Node) : dropDue d n = { n with due := n.due.filter (fun x => decide (x ≠ d)) } := by
  have : (fun x : Due => x != d) = fun x => decide (x ≠ d) := by
    funext x
    rw [bne, Bool.not_eq_eq_eq_not]
    simp [beq_eq_decide]
  unfold dropDue
  rw [this]

theorem dropDue_of_not_mem {d : Due} {n : Node} (h : d ∉ n.due) : dropDue d n = n := by
  have : n.due.filter (fun x => x != d) = n.due :=
    List.filter_eq_self.2 fun x hx => bne_iff_ne.2 fun e => h (e ▸ hx)
  unfold dropDue
  rw [this]

end Node

/-- A step that lets a hold cause join the set, of a part at rest in all but that cause. -/
theorem takeStep_withCause {effect : Node → Node} {s : State} {m : Node} {h : HoldCause} (hs : s.node.Listening)
    (hm : effect s.node = m) (hb : m.BrakesFollow) (hp : m.cue.phase ≠ .starting)
    (hothers : ∀ c, c ≠ h → m.wants c = m.cue.holds.has c) (hin : m.wants h = true) (hout : m.cue.holds.has h = false)
    (hset : (m.withCause h).Settles) : takeStep effect s = .next { s with node := (m.withCause h).announced } := by
  rw [takeStep_listening hs, hm, Node.finish_of_settled (Node.settled_withCause hb hp hothers hin hout hset.2.1) hset]

/-- A step that takes a hold cause away. -/
theorem takeStep_withoutCause {effect : Node → Node} {s : State} {m : Node} {h : HoldCause} (hs : s.node.Listening)
    (hm : effect s.node = m) (hb : m.BrakesFollow) (hp : m.cue.phase ≠ .starting)
    (hothers : ∀ c, c ≠ h → m.wants c = m.cue.holds.has c) (hout : m.wants h = false) (hin : m.cue.holds.has h = true)
    (hset : (m.withoutCause h).Settles) : takeStep effect s = .next { s with node := (m.withoutCause h).announced } := by
  rw [takeStep_listening hs, hm, Node.finish_of_settled (Node.settled_withoutCause hb hp hothers hout hin hset.2.1) hset]

end Sys2Proof.Machine
end

section
/-! The steps of the marks that a tick has set: the peer entries' aging, the brake timer, the pinch limit, the settle count, the
permit timer and the recheck (R45 to R47, R78, R99, R111, R148, R176). -/

namespace Sys2Proof.Machine

namespace Node

/-- A fault out of service, or latched already, changes nothing (R117). -/
theorem raise_of_barred {k : FaultKind} {n : Node} (h : n.inService = false ∨ n.faults.has k = true) : raise k n = n :=
  if_pos h

theorem putEntry_eq (s : Nat) (e : Entry) (n : Node) : putEntry s e n =
    { n with peers := { n.peers with entries := n.peers.entries.map (fun x => if x.station = s then e else x) } } := by
  unfold putEntry
  simp only [beq_iff_eq]

/-- The status events of a step bring one STATUS, at once or pending (R50). -/
theorem statusFollows_finish {a n : Node} (he : n.statusEvent = true) (hp : n.peers = a.peers) :
    a.StatusFollows (finish false n) := by
  refine ⟨fun ha => ?_, fun ha => ?_⟩
  · obtain ⟨m, rfl, h⟩ := finish_builds he (hp ▸ ha)
    rcases h with h | h <;> rw [h] <;> simp [build_peers, hp]
  · rw [finish_pends he (hp ▸ ha), hp]

/-- An axis that stops being timed stays at rest (R148). -/
theorem calm_brakeTimer {n : Node} {a : Axis} {d : AxisDrive} (l : List Due) (h : n.Calm)
    (hd : d.released = (n.axisDrive a).released) : ({ n.setAxisDrive a d with due := l } : Node).Calm :=
  calm_setAxisDrive (n := n) (a := a) n.counters h hd

theorem calm_pinch {n : Node} {a : Axis} (x : Nat) (l : List Due) (h : n.Calm) :
    ({ n.setPlanner a { n.planner a with pinch := x } with due := l } : Node).Calm := by
  cases a <;> exact h

/-- The entry that a station has stands in the table. -/
theorem entry_mem {n : Node} {s : Nat} {e : Entry} (h : n.entry s = some e) : e ∈ n.peers.entries :=
  List.mem_of_find?_eq_some h

/-- A table in which a fitted station's entry has fallen silent has a silent entry (R46). -/
theorem peerSilent_of_map {n m : Node} {s : Nat} {e x : Entry} (h : n.entry s = some e)
    (hm : m.peers.entries = n.peers.entries.map (fun y => if y.station = s then x else y))
    (hx : x.freshness = .stale ∨ x.freshness = .lost) : m.peerSilent = true := by
  have hin : x ∈ m.peers.entries := by
    rw [hm]
    exact List.mem_map.2 ⟨e, entry_mem h, if_pos (by simpa using List.find?_some h)⟩
  unfold peerSilent
  exact List.any_eq_true.2 ⟨x, hin, by simpa using hx⟩

theorem inMotion_iff (p : Phase) :
    p.inMotion = true ↔ p = .moving ∨ p = .holding ∨ p = .stopping ∨ p = .settling := by
  cases p <;> simp [Phase.inMotion]

theorem inService_of_inMotion {n : Node} (h : n.cue.phase.inMotion = true) : n.inService = true := by
  unfold inService
  rcases (inMotion_iff _).1 h with e | e | e | e <;> rw [e] <;> rfl

theorem entryStale_of_fresh {n : Node} {st : Nat} {e : Entry} (h : n.entry st = some e) (hf : e.freshness = .fresh) :
    entryStale st n = putEntry st { e with age := e.age.bump, freshness := .stale } n := by
  unfold entryStale
  rw [h]
  exact if_pos hf

theorem entryLost_of_stale {n : Node} {st : Nat} {e : Entry} (h : n.entry st = some e) (hf : e.freshness = .stale) :
    entryLost st n =
      raiseIf n.cue.phase.inMotion .peerLost (putEntry st { e with age := e.age.bump, freshness := .lost } n) := by
  unfold entryLost
  rw [h]
  exact if_pos (.inr hf)

end Node

/-- A step whose effect raises a fault that is taken. -/
theorem takeStep_raise {effect : Node → Node} {s : State} {m : Node} {k : FaultKind} (hs : s.node.Listening)
    (hm : effect s.node = Node.raise k m) (hserv : m.inService = true) (hk : m.faults.has k = false) :
    ∃ b, takeStep effect s = .next { s with node := b } ∧ m.FaultTaken k b :=
  ⟨_, takeStep_listening hs, hm ▸ Node.raise_taken hserv hk⟩

open Node

/-- Settles O26: the aged entry brings PEER with it, or in motion PEER_LOST, and nothing else. -/
theorem peerEntryGoesStaleOrLost : Obligations.PeerEntryGoesStaleOrLost := by
  refine ⟨fun st e s hs hserv hdue hentry hfresh => ?stale, fun st e s hs hdue hentry hstale => ?lost⟩
  case stale =>
    have ⟨hlisten, hevent, hcalm⟩ := hs
    have hbrakes := brakesFollow_of_calm hcalm
    intro n
    have heff : takeDue (.peerStale st) s.node = n := by
      rw [takeDue_of_mem hdue]
      show entryStale st (dropDue _ s.node) = n
      rw [entryStale_of_fresh (n := dropDue _ s.node) hentry hfresh, putEntry_eq, dropDue_eq]
    refine ⟨fun _ hc => takeStep_calm hlisten heff hc hevent, fun hno hset => ?_⟩
    have hsilent : n.peerSilent = true := peerSilent_of_map hentry rfl (.inl rfl)
    have hothers (c : HoldCause) (hc : c ≠ .peer) : n.wants c = n.cue.holds.has c := by
      refine Eq.trans ?_ (holds_has_of_calm hcalm c).symm
      cases c <;> first | rfl | exact absurd rfl hc
    refine takeStep_withCause hlisten heff hbrakes ?_ hothers ?_ hno hset
    · exact ((inService_iff _).1 hserv).1
    · show (n.inService && n.peerSilent) = true
      rw [hsilent, show n.inService = true from hserv]
      rfl
  case lost =>
    have ⟨hlisten, hevent, hcalm⟩ := hs
    have hbrakes := brakesFollow_of_calm hcalm
    intro n moving
    have heff : takeDue (.peerLost st) s.node = raiseIf s.node.cue.phase.inMotion .peerLost n := by
      rw [takeDue_of_mem hdue]
      show entryLost st (dropDue _ s.node) = _
      rw [entryLost_of_stale (n := dropDue _ s.node) hentry hstale, putEntry_eq, dropDue_eq]
    refine ⟨fun hmov hno => ?_, fun hstill hc => ?_⟩
    · have hmotion := (inMotion_iff _).2 hmov
      rw [hmotion] at heff
      refine takeStep_raise hlisten heff ?_ hno
      exact inService_of_inMotion (n := n) hmotion
    · have hmotion : s.node.cue.phase.inMotion = false := by
        rw [Bool.eq_false_iff]
        exact fun h => hstill ((inMotion_iff _).1 h)
      rw [hmotion] at heff
      exact takeStep_calm hlisten heff hc hevent

/-- Settles O27: each step writes its own count and raises its fault. -/
theorem brakeTimerAndPinchLimitHalt : Obligations.BrakeTimerAndPinchLimitHalt := by
  intro a s ⟨hlisten, hevent, hcalm⟩ timed pinched
  refine ⟨fun hdue hsup => ?_, fun hdue => ?_⟩
  · have heff : takeDue (.brake a) s.node = raise .brake timed := by
      rw [takeDue_of_mem hdue, dropDue_eq]
      show expireBrake a _ = _
      unfold expireBrake
      cases a <;> exact if_pos hsup
    have hinserv : timed.inService = s.node.inService := by simp [timed, inService]
    have hfaults : timed.faults = s.node.faults := by simp [timed]
    refine ⟨fun hserv hno => takeStep_raise hlisten heff (hinserv.trans hserv) (by rw [hfaults, hno]), fun hbar => ?_⟩
    exact takeStep_calm hlisten (heff.trans (raise_of_barred (.inr (by rw [hfaults, hbar])))) (calm_brakeTimer _ hcalm rfl)
      (by simpa [timed] using hevent)
  · have heff : takeDue (.pinch a) s.node = raise .pinch pinched := by
      rw [takeDue_of_mem hdue, dropDue_eq]
      show reachPinch a _ = _
      unfold reachPinch
      cases a <;> rfl
    have hinserv : pinched.inService = s.node.inService := by simp [pinched, inService]
    have hfaults : pinched.faults = s.node.faults := by simp [pinched]
    refine ⟨fun hserv hno => takeStep_raise hlisten heff (hinserv.trans hserv) (by rw [hfaults, hno]), fun hbar => ?_⟩
    exact takeStep_calm hlisten (heff.trans (raise_of_barred (.inr (by rw [hfaults, hbar])))) (calm_pinch _ _ hcalm)
      (by simpa [pinched] using hevent)

/-! ### The settle count (R78) -/

namespace Node

/-- The wagon is DONE and waits for the peer of entry `e`; what the step is to leave as it was in `a` is so. -/
structure DoneAwaiting (a : Node) (e : Entry) (n : Node) : Prop where
  phase : n.cue.phase = .done
  count : n.cue.settleCount = Live.settleTicks a.cfg.live
  ringRelease : n.cue.ringRelease = none
  tiltRelease : n.cue.tiltRelease = none
  queue : n.cue.queue = a.cue.queue
  retired : n.cue.retired = a.cue.retired
  faults : n.faults = a.faults
  ring : n.ring = a.ring
  tilt : n.tilt = a.tilt
  rx : n.rx = a.rx
  permit : n.cue.permit = a.cue.permit
  station : n.station = a.station
  awaited : e ∈ n.peers.entries

/-- An entry that is not yet at the head's end keeps a DONE wagon from retiring (R56, R80). -/
theorem allDone_false {n : Node} {e : Entry} (h : e ∈ n.peers.entries) (hlost : e.freshness ≠ .lost)
    (hcur : e.content.current = n.currentCue) (hphase : e.content.phase ≠ .done)
    (hlast : e.content.lastDone ≠ n.currentCue) : n.allDone n.currentCue = false := by
  unfold allDone
  rw [List.all_eq_false]
  refine ⟨e, h, ?_⟩
  simp [hcur, hphase, hlost, hlast]

theorem currentCue_congr {m n : Node} (h : m.cue.queue = n.cue.queue) : m.currentCue = n.currentCue := by
  unfold currentCue headCue; rw [h]

/-- A DONE wagon that waits for a peer stays so to the end of the step. -/
theorem doneAwaiting_finish {a n : Node} {e : Entry} (hown : e.station ≠ a.station) (hlost : e.freshness ≠ .lost)
    (hcur : e.content.current = a.currentCue) (hphase : e.content.phase ≠ .done)
    (hlast : e.content.lastDone ≠ a.currentCue) (h : DoneAwaiting a e n) : DoneAwaiting a e (finish false n) := by
  refine finish_induct_of (P := DoneAwaiting a e) ?_ ?_ ?_ ?_ n h
  · intro c m hc hm
    rcases nextConsequence_cases hc with ⟨b, rfl⟩ | rfl | ⟨-, hp⟩
    · obtain ⟨r, t, e', hr, ht⟩ := changeBrake_cue b m
      show DoneAwaiting a e (changeBrake b m)
      refine ⟨by rw [e']; exact hm.phase, by rw [e']; exact hm.count, by rw [e']; exact hr hm.ringRelease,
        by rw [e']; exact ht hm.tiltRelease, by rw [e']; exact hm.queue, by rw [e']; exact hm.retired, ?_, ?_, ?_, ?_,
        by rw [e']; exact hm.permit, ?_, ?_⟩
      · simpa using hm.faults
      · simpa using hm.ring
      · simpa using hm.tilt
      · simpa using hm.rx
      · simpa [station] using hm.station
      · simpa using hm.awaited
    · obtain ⟨b, e'⟩ := setHolds_eq m.wantedHolds m
      show DoneAwaiting a e (setHolds _ m)
      rw [e']
      exact ⟨hm.phase, hm.count, hm.ringRelease, hm.tiltRelease, hm.queue, hm.retired, hm.faults, hm.ring, hm.tilt, hm.rx,
        hm.permit, hm.station, hm.awaited⟩
    · exfalso
      have hsame := currentCue_congr hm.queue
      unfold phaseConsequence at hp
      rw [hm.phase] at hp
      dsimp only at hp
      rw [allDone_false hm.awaited hlost (hcur.trans hsame.symm) hphase (by rwa [hsame])] at hp
      simp at hp
  · intro m hm
    obtain ⟨hc, hf, hr, ht, -, -⟩ := build_at_rest (n := m) (by rw [hm.phase]; rfl)
    refine ⟨by rw [hc]; exact hm.phase, by rw [hc]; exact hm.count, by rw [hc]; exact hm.ringRelease,
      by rw [hc]; exact hm.tiltRelease, by rw [hc]; exact hm.queue, by rw [hc]; exact hm.retired, hf.trans hm.faults,
      hr.trans hm.ring, ht.trans hm.tilt, by simpa using hm.rx, by rw [hc]; exact hm.permit,
      by simpa [station] using hm.station, ?_⟩
    rw [build_peers]
    refine List.mem_map.2 ⟨e, hm.awaited, if_neg ?_⟩
    rw [hm.station]
    simpa using hown
  · intro m b hm
    exact ⟨hm.phase, hm.count, hm.ringRelease, hm.tiltRelease, hm.queue, hm.retired, hm.faults, hm.ring, hm.tilt, hm.rx,
      hm.permit, hm.station, hm.awaited⟩
  · intro m b hm
    exact ⟨hm.phase, hm.count, hm.ringRelease, hm.tiltRelease, hm.queue, hm.retired, hm.faults, hm.ring, hm.tilt, hm.rx,
      hm.permit, hm.station, hm.awaited⟩

/-- Outside the phases of motion and HALTED both brakes are applied (R147). -/
theorem released_of_still {tick : Bool} {n : Node} (h : n.nextConsequence tick = none) (hm : n.cue.phase.inMotion = false)
    (hh : n.cue.phase ≠ .halted) (a : Axis) : (n.axisDrive a).released = false := by
  rw [released_of_calm h a]
  unfold brakeCommand
  simp [hm, hh]

end Node

/-- Settles O28: DONE is entered with the counter at settle_ticks, and the entry still awaited keeps it so. -/
theorem settleCountReachedIsDone : Obligations.SettleCountReachedIsDone := by
  intro s e ⟨hlisten, hevent, hcalm⟩ hdue hphase hmem hown hlost hcur hpdone hlast
  have heff : takeDue .settle s.node = setPhase .done { s.node with
      due := s.node.due.filter (fun x => decide (x ≠ .settle))
      cue := { s.node.cue with settleCount := Live.settleTicks s.node.live } } := by
    rw [takeDue_of_mem hdue, dropDue_eq]
    exact if_pos hphase
  set n := takeDue .settle s.node with hn
  have hdone : DoneAwaiting s.node e n := by
    rw [heff]
    exact ⟨by simp [setPhase, note], by simp [setPhase, note]; rfl, by simp [setPhase, note], by simp [setPhase, note],
      by simp [setPhase, note], by simp [setPhase, note], by simp, by simp, by simp, by simp, by simp,
      by simp [station], by simpa using hmem⟩
  have hfin := doneAwaiting_finish hown hlost hcur hpdone hlast hdone
  refine ⟨finish false n, takeStep_listening hlisten, hfin.phase, hfin.count, ?_, hfin.ringRelease, hfin.tiltRelease,
    hfin.queue, hfin.retired, hfin.faults, hfin.ring, hfin.tilt, hfin.rx, hfin.permit, ?_⟩
  · exact released_of_still (finish_done false n) (by rw [hfin.phase]; rfl) (by rw [hfin.phase]; decide)
  · exact statusFollows_finish (by rw [heff]; exact setPhase_marked _ _ (by decide)) (by rw [heff]; simp)

/-! ### The permit timer (R111) -/

/-- Settles O42: the permit timer runs or ends, and PERMIT follows. -/
theorem permitRunsAndExpires : Obligations.PermitRunsAndExpires := by
  refine ⟨fun f rest s hs hq hkind hfate hdue => ?runs, fun t s hs hdue hphase hpermit => ?expires⟩
  case runs =>
    have ⟨hlisten, hevent, hcalm⟩ := hs
    have hbrakes := brakesFollow_of_calm hcalm
    intro n
    have heff : applyPermit s.node = n := by
      unfold applyPermit
      rw [withHead_of_head hq hkind hfate]
      have hstart : s.node.startValue .permit s.node.permitTicks = s.node.permitTicks :=
        if_neg (by simpa using hdue)
      dsimp only
      rw [hstart, dropDue_of_not_mem (by exact hdue)]
      rfl
    refine ⟨fun hserv => if_pos hserv, fun hrun => ?_, fun hnot hphase hset => ?_⟩
    · refine takeStep_calm hlisten heff (calm_of_brakes hbrakes ?_ ?_) hevent
      · refine Eq.trans ?_ (holds_of_calm hcalm).symm
        refine HoldSet.ext_has fun c => ?_
        rw [wantedHolds_has, wantedHolds_has]
        cases c
        case permit => simp [wants, n, Option.isSome_iff_ne_none, hrun]
        all_goals rfl
      · refine Eq.trans ?_ (phaseConsequence_of_done hcalm)
        have hsome : s.node.cue.permit.isSome = true := Option.isSome_iff_ne_none.2 hrun
        have hsome' : n.cue.permit.isSome = true := rfl
        unfold phaseConsequence
        rw [hsome, hsome']
        rfl
    · have hothers (c : HoldCause) (hc : c ≠ .permit) : n.wants c = n.cue.holds.has c := by
        refine Eq.trans ?_ (holds_has_of_calm hcalm c).symm
        cases c <;> first | rfl | exact absurd rfl hc
      refine takeStep_withoutCause hlisten heff hbrakes hphase hothers rfl ?_ hset
      exact (holds_has_of_calm hcalm .permit).trans (by simp [wants, hnot])
  case expires =>
    have ⟨hlisten, hevent, hcalm⟩ := hs
    have hbrakes := brakesFollow_of_calm hcalm
    intro n hset
    have heff : takeDue .permit s.node = n := by
      rw [takeDue_of_mem hdue, dropDue_eq]
      rfl
    have hothers (c : HoldCause) (hc : c ≠ .permit) : n.wants c = n.cue.holds.has c := by
      refine Eq.trans ?_ (holds_has_of_calm hcalm c).symm
      cases c <;> first | rfl | exact absurd rfl hc
    refine takeStep_withCause hlisten heff hbrakes hphase hothers rfl ?_ hset
    exact (holds_has_of_calm hcalm .permit).trans (by simp [wants, hpermit])

end Sys2Proof.Machine
end

section
/-! The discrete inputs (R148 to R155): the level changes, its latch is set, and the block of the input acts. -/

namespace Sys2Proof.Machine

namespace Node

/-- The part after a level's own change (R150, R155): before any block has acted on it. -/
def levelChanged (i : Fin 8) (n : Node) : Node :=
  let bit : Byte := 1 <<< i.val
  let changed := n.inputs.changed ||| bit
  { n with inputs :=
    { levels := n.inputs.levels ^^^ bit, changed
      attention := decide (changed &&& n.attentionMask ≠ 0) || n.trippedWith actionReport } }

theorem changeLevel_same {i : Fin 8} {l : Bool} {n : Node} (h : n.level i = l) : changeLevel i l n = n := if_pos h

theorem changeLevel_eq {i : Fin 8} {l : Bool} {n : Node} (h : n.level i ≠ l) :
    changeLevel i l n = reportInput i (levelChanged i n) := by
  have hbne (x : Byte) : (x != 0) = decide (x ≠ 0) := by
    rw [Bool.eq_iff_iff, bne_iff_ne, decide_eq_true_eq]
  unfold changeLevel levelChanged attentionNow
  rw [if_neg h]
  simp only [hbne]
  rfl

theorem level_levelChanged (i j : Fin 8) (n : Node) :
    (levelChanged i n).level j = if j = i then !n.level j else n.level j := by
  have hbit : (1 <<< i.val : Byte).getLsbD j.val = decide (j = i) := by revert i j; decide
  show (n.inputs.levels ^^^ (1 <<< i.val)).getLsbD j.val = _
  rw [BitVec.getLsbD_xor, hbit]
  by_cases h : j = i <;> simp [h, level]

/-- The input that has changed shows its new level. -/
theorem level_levelChanged_self {i : Fin 8} {l : Bool} {n : Node} (h : n.level i ≠ l) : (levelChanged i n).level i = l := by
  rw [level_levelChanged, if_pos rfl]
  revert h
  cases n.level i <;> cases l <;> simp

/-- A change of another input than SEATS_STOWED leaves its cause alone, and one of another than DECK_CLEAR leaves that. -/
theorem wants_levelChanged {i : Fin 8} {n : Node} {c : HoldCause} (hs : c = .stowed → i ≠ 5) (hp : c = .personnel → i ≠ 6) :
    (levelChanged i n).wants c = n.wants c := by
  cases c
  case personnel =>
    have : (levelChanged i n).deckClear = n.deckClear := (level_levelChanged i 6 n).trans (if_neg (hp rfl).symm)
    show (n.inService && !(levelChanged i n).deckClear) = _
    rw [this]; rfl
  case stowed =>
    have : (levelChanged i n).seatsStowed = n.seatsStowed := (level_levelChanged i 5 n).trans (if_neg (hs rfl).symm)
    show (n.inService && (!(levelChanged i n).seatsStowed && n.headMoves .tilt)) = _
    rw [this]; rfl
  all_goals rfl

/-- An input that no hold cause reads leaves a calm part calm. -/
theorem calm_levelChanged {i : Fin 8} {n : Node} (h : n.Calm) (hs : i ≠ 5) (hp : i ≠ 6) : (levelChanged i n).Calm := by
  refine calm_of_brakes (brakesFollow_of_calm (n := n) h) ?_ (phaseConsequence_of_done (n := n) h)
  refine Eq.trans (HoldSet.ext_has fun c => ?_) (holds_of_calm h).symm
  rw [wantedHolds_has, wantedHolds_has, wants_levelChanged (fun _ => hs) (fun _ => hp)]

theorem limitStruck_iff (n : Node) : n.limitStruck = true ↔ (n.drive.tilt.released = true ∨ 0 < n.tilt.velocity)
    ∧ (n.tilt.up = true ∧ n.level 1 = true ∨ n.tilt.up = false ∧ n.level 2 = true) := by
  simp [limitStruck, upLimit, downLimit]

end Node

open Node

/-- The step of a level that changes. -/
theorem exec_levelChange {i : Fin 8} {l : Bool} {s : State} (hs : s.node.Listening) (h : s.node.level i ≠ l) :
    exec (.inputLevelChange i l) s =
      .next { s with node := finish false (reportInput i (levelChanged i s.node)) } := by
  show takeStep (changeLevel i l) s = _
  rw [takeStep_listening hs, changeLevel_eq h]

/-- A change that its block makes nothing of. -/
theorem exec_levelChange_calm {i : Fin 8} {l : Bool} {s : State} (hs : s.node.Steady) (h : s.node.level i ≠ l)
    (hrep : reportInput i (levelChanged i s.node) = levelChanged i s.node) (hcalm : (levelChanged i s.node).Calm) :
    exec (.inputLevelChange i l) s = .next { s with node := levelChanged i s.node } := by
  rw [exec_levelChange hs.1 h, hrep, finish_of_none hcalm hs.2.1]

/-- Settles O31: the two hold inputs act through their causes, DRIVE_READY through nothing at once. -/
theorem inputLevelChangeLatched : Obligations.InputLevelChangeLatched := by
  intro i level s hs bit changed n
  have ⟨hlisten, hevent, hcalm⟩ := hs
  have hbrakes : n.BrakesFollow := brakesFollow_of_calm (n := s.node) hcalm
  have hheld (c : HoldCause) : n.cue.holds.has c = s.node.wants c := holds_has_of_calm hcalm c
  have hstarted (hserv : s.node.inService = true) : n.cue.phase ≠ .starting := ((inService_iff _).1 hserv).1
  have heff (h : s.node.level i ≠ level) (hi : i = 5 ∨ i = 6) : changeLevel i level s.node = n := by
    rw [changeLevel_eq h]
    rcases hi with rfl | rfl <;> rfl
  have hlevel (h : s.node.level i ≠ level) : n.level i = level := level_levelChanged_self h
  have hold (h : s.node.level i ≠ level) : s.node.level i = !level := by
    revert h; cases s.node.level i <;> cases level <;> simp
  have deck (hi : i = 6) (c : HoldCause) (hc : c ≠ .personnel) : n.wants c = n.cue.holds.has c :=
    (wants_levelChanged (fun _ => by rw [hi]; decide) (fun e => absurd e hc)).trans (hheld c).symm
  have seats (hi : i = 5) (c : HoldCause) (hc : c ≠ .stowed) : n.wants c = n.cue.holds.has c :=
    (wants_levelChanged (fun e => absurd e hc) (fun _ => by rw [hi]; decide)).trans (hheld c).symm
  have wantsDeck (m : Node) : m.wants .personnel = (m.inService && !m.level 6) := rfl
  have wantsSeats (m : Node) : m.wants .stowed = (m.inService && (!m.level 5 && m.headMoves .tilt)) := rfl
  refine ⟨fun h => takeStep_idle hs (changeLevel_same h), hlevel, ?ready, ?quiet, ?deckLost, ?deckBack, ?seatsLost,
    ?seatsBack⟩
  case ready =>
    rintro h rfl
    exact exec_levelChange_calm hs h rfl (calm_levelChanged hcalm (by decide) (by decide))
  case quiet => exact fun h hi hn => takeStep_calm hlisten (heff h hi) hn hevent
  case deckLost =>
    rintro h rfl rfl hserv hset
    refine takeStep_withCause hlisten (heff h (.inr rfl)) hbrakes (hstarted hserv) (deck rfl) ?_ ?_ hset
    · rw [wantsDeck, hlevel h, show n.inService = true from hserv]; rfl
    · rw [hheld, wantsDeck, hold h]; simp
  case deckBack =>
    rintro h rfl rfl hserv hset
    refine takeStep_withoutCause hlisten (heff h (.inr rfl)) hbrakes (hstarted hserv) (deck rfl) ?_ ?_ hset
    · rw [wantsDeck, hlevel h]; simp
    · rw [hheld, wantsDeck, hold h, hserv]; rfl
  case seatsLost =>
    rintro h rfl rfl hserv hmove hset
    refine takeStep_withCause hlisten (heff h (.inl rfl)) hbrakes (hstarted hserv) (seats rfl) ?_ ?_ hset
    · rw [wantsSeats, hlevel h, show n.inService = true from hserv,
        show n.headMoves .tilt = true from (headMoves_iff s.node .tilt).2 hmove]; rfl
    · rw [hheld, wantsSeats, hold h]; simp
  case seatsBack =>
    rintro h rfl rfl hserv hmove hset
    refine takeStep_withoutCause hlisten (heff h (.inl rfl)) hbrakes (hstarted hserv) (seats rfl) ?_ ?_ hset
    · rw [wantsSeats, hlevel h]; simp
    · rw [hheld, wantsSeats, hold h, hserv, (headMoves_iff s.node .tilt).2 hmove]; rfl

/-- Settles O32: the chain and the limits report to the Fault Latches. -/
theorem chainAndLimitsRaiseFaults : Obligations.ChainAndLimitsRaiseFaults := by
  intro i level s hs hserv hne bit changed n travels struck
  have ⟨hlisten, hevent, hcalm⟩ := hs
  have hserv' : n.inService = true := hserv
  have hstruck : n.limitStruck = true ↔ struck := limitStruck_iff n
  have hchain (hi : i = 0) : n.chainClosed = level := by subst hi; exact level_levelChanged_self hne
  have limit (hi : i = 1 ∨ i = 2) (m : Node) : reportInput i m = raiseIf m.limitStruck .limit m := by
    rcases hi with rfl | rfl <;> rfl
  have hcalm' (h5 : i ≠ 5) (h6 : i ≠ 6) : n.Calm := calm_levelChanged hcalm h5 h6
  refine ⟨?opens, ?closes, ?hits, ?misses⟩
  case opens =>
    rintro rfl rfl hno
    have hrep : reportInput 0 n = raise .estop n := by
      show raiseIf (!n.chainClosed) _ _ = _
      rw [hchain rfl]; rfl
    have htaken : n.FaultTaken .estop (finish false (raise .estop n)) := raise_taken hserv' hno
    refine ⟨_, (exec_levelChange hlisten hne).trans (congrArg (fun b => Host.Outcome.next { s with node := finish false b })
      hrep), htaken, ?_, ?_, fun a => ?_⟩
    · exact congrArg Planner.velocity (htaken.2.1 .ring)
    · exact congrArg Planner.velocity (htaken.2.1 .tilt)
    · rw [released_of_calm (finish_done false _) a]
      have hlatched : (finish false (raise .estop n)).faults.has .estop = true := by
        rw [htaken.1, FaultSet.has_insert]; simp
      simp [brakeCommand, estopLatched, hlatched]
  case closes =>
    intro hi hbar
    refine exec_levelChange_calm hs hne ?_ (hcalm' (by rw [hi]; decide) (by rw [hi]; decide))
    have hrep : reportInput i n = raiseIf (!n.chainClosed) .estop n := by subst hi; rfl
    refine hrep.trans ?_
    rcases hbar with hclosed | hlatched
    · rw [hchain hi, hclosed]; rfl
    · exact raiseIf_of_barred _ (.inr hlatched)
  case hits =>
    intro hi hstr hno
    have hrep : reportInput i n = raise .limit n := by
      rw [limit hi, hstruck.2 hstr]; rfl
    exact ⟨_, (exec_levelChange hlisten hne).trans
      (congrArg (fun b => Host.Outcome.next { s with node := finish false b }) hrep), raise_taken hserv' hno⟩
  case misses =>
    intro hi hbar
    refine exec_levelChange_calm hs hne ?_ (hcalm' (by rcases hi with rfl | rfl <;> decide) (by rcases hi with rfl | rfl <;> decide))
    show reportInput i n = n
    rw [limit hi]
    rcases hbar with hno | hlatched
    · rw [show n.limitStruck = false from Bool.eq_false_iff.2 fun h => hno (hstruck.1 h)]; rfl
    · exact raiseIf_of_barred _ (.inr hlatched)

/-- Settles O33, by the supervision of the brake and whether the new level agrees with the output. -/
theorem brakeFeedbackChange : Obligations.BrakeFeedbackChange := by
  intro a level s hs i bit changed d n agreed hne
  have ⟨hlisten, hevent, hcalm⟩ := hs
  have hrep (m : Node) : reportInput i m = feedbackChanged a m := by cases a <;> rfl
  have hlift (m : Node) : m.brakeLifted a = m.level i := by cases a <;> rfl
  have hdrive : n.axisDrive a = d := by cases a <;> rfl
  have hn : n.Calm := calm_levelChanged hcalm (by cases a <;> decide) (by cases a <;> decide)
  have hagrees : n.brakeAgrees a = (level == d.released) := by
    unfold brakeAgrees
    rw [hlift, hdrive]
    exact congrArg (· == d.released) (level_levelChanged_self hne)
  have hagreed : agreed.Calm := calm_setAxisDrive (n := n) (a := a) n.counters hn (by rw [hdrive])
  have agrees (hsup : d.supervision = .changing) (heq : level = d.released) : reportInput i n = brakeAgreed a n := by
    rw [hrep]
    unfold feedbackChanged
    rw [hdrive, hsup, hagrees, heq]
    simp
  have hput : n.setAxisDrive a { n.axisDrive a with supervision := .agreed } = agreed := by rw [hdrive]
  have hreleased : (agreed.axisDrive a).released = d.released := by cases a <;> rfl
  have hrelease : agreed.release a = s.node.release a := by cases a <;> rfl
  refine ⟨fun hsup => ?_, fun hsup => ?_, fun hsup heq hno => ?_, fun hsup heq hrel hwait hc => ?_,
    fun hsup hdis hserv hno => ?_⟩
  · refine exec_levelChange_calm hs hne ((hrep _).trans ?_) hn
    unfold feedbackChanged
    rw [show (levelChanged i s.node).axisDrive a = d from hdrive, hsup]
  · refine exec_levelChange_calm hs hne ((hrep _).trans ?_) hn
    show feedbackChanged a n = n
    unfold feedbackChanged
    rw [hdrive, hagrees]
    rcases hsup with ⟨hsup, hdis⟩ | ⟨hsup, heq⟩
    · rw [hsup]; simp [hdis]
    · rw [hsup]; simp [heq]
  · have he : reportInput i n = agreed := by
      rw [agrees hsup heq]
      unfold brakeAgreed reportReleased
      dsimp only
      rw [hput, hreleased, hrelease]
      cases hr : d.released with
      | false => rfl
      | true => exact if_neg fun h => hno ⟨hr, h⟩
    refine (exec_levelChange hlisten hne).trans ?_
    rw [show reportInput i (levelChanged i s.node) = agreed from he, finish_of_none hagreed]
    simpa [agreed] using hevent
  · have he : reportInput i n = agreed.setRelease a (some .released) := by
      rw [agrees hsup heq]
      unfold brakeAgreed reportReleased
      dsimp only
      rw [hput, hreleased, hrelease, hrel, hwait]
      rfl
    refine (exec_levelChange hlisten hne).trans ?_
    rw [show reportInput i (levelChanged i s.node) = _ from he, finish_of_none hc]
    simpa [agreed] using hevent
  · have he : reportInput i n = raise .brake n := by
      rw [hrep]
      unfold feedbackChanged
      rw [hdrive, hsup, hagrees]
      simp [hdis]
    exact ⟨_, (exec_levelChange hlisten hne).trans (congrArg (fun b => Host.Outcome.next { s with node := finish false b }) he),
      raise_taken hserv hno⟩

/-! ### The receiver (R2) -/

/-- Settles O34: both events write the receiver alone, which no consequence reads. -/
theorem receiverFindsFrame : Obligations.ReceiverFindsFrame := by
  intro s hs
  have ⟨hlisten, hevent, hcalm⟩ := hs
  have hdriving : (!s.node.tx.driving.isEmpty) = decide (s.node.tx.driving ≠ []) := by
    cases s.node.tx.driving <;> rfl
  exact ⟨fun h => takeStep_calm hlisten (hdriving ▸ if_pos h) hcalm hevent, fun h => takeStep_idle hs (if_neg h),
    fun h => takeStep_calm hlisten (if_pos h) hcalm hevent, fun h => takeStep_idle hs (if_neg h)⟩

end Sys2Proof.Machine
end

section
/-! The Monitor (R159 to R167): the conversion of a turn, and the trip and untrip of a channel by its action. -/

namespace Sys2Proof.Machine

theorem limitTo_eq {lo hi : Int} (h : lo ≤ hi) (x : Int) : limitTo (lo, hi) x = max lo (min hi x) := by
  unfold limitTo
  dsimp only
  split
  · omega
  · split <;> omega

theorem mem_channels (c : Fin 8) : c ∈ channels := by revert c; decide

namespace Node

theorem channelAction_of_inService {n : Node} (h : n.inService = true) (c : Fin 8) :
    n.channelAction c = Live.channelAction n.cfg.live c := if_pos h

/-! ### The conversion (R160 to R163) -/

/-- The next enabled channel, upward and round (R160). -/
theorem nextTurn_eq {n : Node} (h : n.inService = true) (c : Fin 8) : n.nextTurn c =
    ((channels.filter (fun d => c < d)) ++ (channels.filter (fun d => d ≤ c))).find? (Live.channelEnabled n.cfg.live) := by
  have hen : n.channelEnabled = Live.channelEnabled n.cfg.live := by
    funext d
    simp [channelEnabled, h, live]
  have hup : (channels.filter (fun d => decide (c < d))).find? (Live.channelEnabled n.cfg.live)
      = channels.find? (fun d => decide (c < d) && Live.channelEnabled n.cfg.live d) := by
    rw [List.find?_filter]
    congr 1
    funext d
    simp
  unfold nextTurn
  rw [List.find?_append, hup, hen]
  cases hf : channels.find? (fun d => decide (c < d) && Live.channelEnabled n.cfg.live d) with
  | some d => rfl
  | none =>
    rw [Option.none_or, List.find?_filter]
    have hnone (d : Fin 8) (hd : c < d) : Live.channelEnabled n.cfg.live d = false := by
      simpa [hd] using List.find?_eq_none.1 hf d (mem_channels d)
    show channels.find? _ = _
    congr 1
    funext d
    by_cases hd : c < d
    · simp [hnone d hd]
    · simp [not_lt.1 hd]

/-- The live record after a conversion (R161 to R163). -/
def convertedRecord (r : LiveRecord) (value : Int) (out : Bool) : LiveRecord :=
  { r with last := value, outRun := if out then min 255 (r.outRun + 1) else 0
           inRun := if out then 0 else min 255 (r.inRun + 1) }

theorem convert_eq {n : Node} {c : Fin 8} {tilt : Int} (reading : BitVec 10) (hturn : n.monitor.turn = some c)
    (hconv : n.monitor.converting = some tilt) (hserv : n.inService = true) :
    let v := scaledValue (Live.channelGain n.live c) (Live.channelOffset n.live c) reading.toNat
    let out := n.valueOut c tilt v
    let r := n.liveRecord c
    let r' := convertedRecord r v out
    convert reading n = { n with
      monitor := { live := n.monitor.live.set c r', turn := n.nextTurn c, converting := none }
      due := n.due ++ (if !r.tripped && out && r'.outRun == 3 then [Due.trip c] else [])
        ++ (if r.tripped && !out && r'.inRun == 3 then [Due.untrip c] else []) } := by
  unfold convert
  rw [hturn, hconv]
  exact if_pos hserv

theorem valueOut_iff (n : Node) (c : Fin 8) (tilt v : Int) : n.valueOut c tilt v = true ↔
    v < Live.channelLo n.live c ∨ Live.channelHi n.live c < v
      ∨ (c = 0 ∧ 0 < Live.inclineTolerance n.live ∧ Live.inclineTolerance n.live < (v - tilt).natAbs) := by
  simp [valueOut, or_assoc, and_assoc]

/-- A record written with its trip as it was leaves each action's trips as they were. -/
theorem trippedWith_set {n : Node} {mon : Monitor} {l : List Due} {c : Fin 8} {r : LiveRecord}
    (hm : mon.live = n.monitor.live.set c r) (action : Nat)
    (h : r.tripped = (n.liveRecord c).tripped ∨ n.channelAction c ≠ action) :
    ({ n with monitor := mon, due := l } : Node).trippedWith action = n.trippedWith action := by
  set m : Node := { n with monitor := mon, due := l }
  have hact (d : Fin 8) : m.channelAction d = n.channelAction d := rfl
  have hrec (d : Fin 8) : m.liveRecord d = if c = d then r else n.liveRecord d := by
    rw [← liveRecord_setLiveRecord]
    unfold liveRecord
    rw [show m.monitor.live = _ from hm]
    rfl
  unfold trippedWith
  congr 1
  funext d
  rw [hrec, hact]
  by_cases hd : c = d
  · subst hd
    rw [if_pos rfl]
    rcases h with h | h
    · rw [h]
    · rw [beq_eq_false_iff_ne.2 h, Bool.and_false, Bool.and_false]
  · rw [if_neg hd]

/-- What the Monitor writes leaves a calm part calm where no HOLD channel's trip changes. -/
theorem calm_of_monitor {m n : Node} {mon : Monitor} {l : List Due} (h : n.Calm) (hm : m = { n with monitor := mon, due := l })
    (ht : m.trippedWith actionHold = n.trippedWith actionHold) : m.Calm := by
  subst hm
  refine calm_of_brakes (brakesFollow_of_calm (n := n) h) ?_ (phaseConsequence_of_done (n := n) h)
  refine Eq.trans (HoldSet.ext_has fun c => ?_) (holds_of_calm h).symm
  rw [wantedHolds_has, wantedHolds_has]
  cases c
  case monitor =>
    show (n.inService && _) = (n.inService && _)
    rw [ht]
  all_goals rfl

end Node

open Node

/-- Settles O29: the conversion writes the record of the channel, whose trip stands, and passes the turn on. -/
theorem monitorConversionJudged : Obligations.MonitorConversionJudged := by
  intro c reading tilt s ⟨hlisten, hevent, hcalm⟩ hserv hturn hconv live r value out r' next hout hin hnext
  have hvalue : scaledValue (Live.channelGain s.node.live c) (Live.channelOffset s.node.live c) reading.toNat = value :=
    limitTo_eq (by decide) _
  have hv : s.node.valueOut c tilt value = true ↔ out := valueOut_iff _ _ _ _
  have hr' : convertedRecord r value (s.node.valueOut c tilt value) = r' := by
    by_cases ho : out
    · rw [hout ho, hv.2 ho]; rfl
    · rw [hin ho, Bool.eq_false_iff.2 (mt hv.1 ho)]; rfl
  have heff := convert_eq reading hturn hconv hserv
  dsimp only at heff
  rw [hvalue, show convertedRecord (s.node.liveRecord c) _ _ = r' from hr', nextTurn_eq hserv, ← hnext] at heff
  have htrip : (!r.tripped && s.node.valueOut c tilt value && r'.outRun == 3) = decide (r.tripped = false ∧ r'.outRun = 3) := by
    by_cases ho : out
    · rw [hv.2 ho, Bool.eq_iff_iff]; simp
    · rw [Bool.eq_false_iff.2 (mt hv.1 ho), hin ho]; simp
  have huntrip : (r.tripped && !s.node.valueOut c tilt value && r'.inRun == 3) = decide (r.tripped = true ∧ r'.inRun = 3) := by
    by_cases ho : out
    · rw [hv.2 ho, hout ho]; simp
    · rw [Bool.eq_false_iff.2 (mt hv.1 ho), Bool.eq_iff_iff]; simp
  rw [htrip, huntrip] at heff
  simp only [decide_eq_true_eq] at heff
  have hstands : r'.tripped = r.tripped := by rw [← hr']; rfl
  refine takeStep_calm hlisten heff (calm_of_monitor hcalm rfl ?_) hevent
  exact trippedWith_set (c := c) (r := r') rfl _ (.inl hstands)

/-! ### The trip and the untrip (R163 to R167) -/

namespace Node

/-- The part with a channel's trip written, and the mark that brought it taken. -/
def tripWritten (c : Fin 8) (tripped : Bool) (mark : Due) (n : Node) : Node :=
  { n with
    monitor := { n.monitor with live := n.monitor.live.set c { n.liveRecord c with tripped } }
    due := n.due.filter (fun d => d ≠ mark) }

theorem tripWritten_liveRecord (c d : Fin 8) (b : Bool) (mark : Due) (n : Node) :
    (tripWritten c b mark n).liveRecord d = if c = d then { n.liveRecord c with tripped := b } else n.liveRecord d :=
  liveRecord_setLiveRecord c d _ n

/-- A channel of another action, written, counts for none of this one. -/
theorem tripWritten_trippedWith {c : Fin 8} {b : Bool} {mark : Due} {n : Node} {action : Nat}
    (h : n.channelAction c ≠ action) : (tripWritten c b mark n).trippedWith action = n.trippedWith action :=
  trippedWith_set (n := n) rfl action (.inr h)

/-- A channel of the action that trips. -/
theorem trippedWith_of_trip {c : Fin 8} {mark : Due} {n : Node} {action : Nat} (h : n.channelAction c = action) :
    (tripWritten c true mark n).trippedWith action = true :=
  (trippedWith_iff _ _).2 ⟨c, by rw [tripWritten_liveRecord, if_pos rfl], h⟩

theorem takeDue_trip {c : Fin 8} {n : Node} (h : .trip c ∈ n.due) : takeDue (.trip c) n =
    let m := tripWritten c true (.trip c) n
    let m := if n.channelAction c = actionReport then { m with inputs := { m.inputs with attention := m.attentionNow } } else m
    raiseIf (n.channelAction c == actionHalt) .monitor m := by
  rw [takeDue_of_mem h, dropDue_eq]
  show trip c _ = _
  unfold trip
  dsimp only
  by_cases ha : n.channelAction c = actionReport
  · rw [if_pos ha, if_pos (by exact ha)]; rfl
  · rw [if_neg ha, if_neg (by exact ha)]; rfl

theorem takeDue_untrip {c : Fin 8} {n : Node} (h : .untrip c ∈ n.due) : takeDue (.untrip c) n =
    let m := tripWritten c false (.untrip c) n
    if n.channelAction c = actionReport then { m with inputs := { m.inputs with attention := m.attentionNow } } else m := by
  rw [takeDue_of_mem h, dropDue_eq]
  rfl

/-- A channel of another action than HOLD, written, leaves a calm part calm. -/
theorem calm_tripWritten {c : Fin 8} {b : Bool} {mark : Due} {n : Node} (h : n.Calm)
    (ha : n.channelAction c ≠ actionHold) : (tripWritten c b mark n).Calm :=
  calm_of_monitor h rfl (tripWritten_trippedWith ha)

end Node

/-- Settles O30, by the action of the channel. -/
theorem monitorTripActs : Obligations.MonitorTripActs := by
  intro c s hs hserv live with' on off
  have ⟨hlisten, hevent, hcalm⟩ := hs
  have hact : s.node.channelAction c = Live.channelAction live c := channelAction_of_inService hserv c
  have hbrakes := brakesFollow_of_calm hcalm
  have hphase : s.node.cue.phase ≠ .starting := ((inService_iff _).1 hserv).1
  have hheld (d : HoldCause) : s.node.cue.holds.has d = s.node.wants d := holds_has_of_calm hcalm d
  have wantsMonitor (m : Node) : m.wants .monitor = (m.inService && m.trippedWith actionHold) := rfl
  have others (b : Bool) (mark : Due) (d : HoldCause) (hd : d ≠ .monitor) :
      (tripWritten c b mark s.node).wants d = (tripWritten c b mark s.node).cue.holds.has d := by
    refine Eq.trans ?_ (hheld d).symm
    cases d <;> first | rfl | exact absurd rfl hd
  refine ⟨fun hdue => ?trips, fun hdue => ?untrips⟩
  case trips =>
    have heff := takeDue_trip hdue
    rw [hact] at heff
    refine ⟨fun ha => ?report, fun ha hno hset => ?hold, fun hbar => ?barred, fun ha hno => ?halt, fun ha => ?tow⟩
    case report =>
      have hc : on.Calm := calm_tripWritten hcalm (by rw [hact, ha]; decide)
      have hnow : on.attentionNow = true := by
        unfold attentionNow
        rw [show on.trippedWith actionReport = true from trippedWith_of_trip (hact.trans ha), Bool.or_true]
      refine takeStep_calm hlisten (heff.trans ?_) (m := { on with inputs := { on.inputs with attention := true } }) hc hevent
      rw [ha]
      show raiseIf false .monitor { on with inputs := { on.inputs with attention := on.attentionNow } } = _
      rw [hnow]
      rfl
    case hold =>
      rw [ha] at heff
      have hin : on.wants .monitor = true := by
        rw [wantsMonitor, show on.inService = true from hserv,
          show on.trippedWith actionHold = true from trippedWith_of_trip (hact.trans ha)]; rfl
      exact takeStep_withCause hlisten heff hbrakes hphase (others _ _) hin hno hset
    case barred =>
      rcases hbar with ⟨ha, hpresent⟩ | ⟨ha, hlatched⟩
      · rw [ha] at heff
        refine takeStep_calm hlisten heff (calm_of_monitor hcalm rfl ?_) hevent
        rw [hheld, wantsMonitor, hserv, Bool.true_and] at hpresent
        rw [hpresent]
        exact trippedWith_of_trip (hact.trans ha)
      · rw [ha] at heff
        refine takeStep_calm hlisten (heff.trans (raiseIf_of_barred _ (.inr hlatched)))
          (calm_tripWritten hcalm (by rw [hact, ha]; decide)) hevent
    case halt =>
      rw [ha] at heff
      exact takeStep_raise hlisten heff hserv hno
    case tow =>
      rw [ha] at heff
      exact takeStep_calm hlisten heff (calm_tripWritten hcalm (by rw [hact, ha]; decide)) hevent
  case untrips =>
    have heff := takeDue_untrip hdue
    rw [hact] at heff
    refine ⟨fun ha => ?report, fun ha => ?none, fun ha hc => ?stays, fun ha hpresent hlast hset => ?leaves⟩
    case report =>
      have hc : off.Calm := calm_tripWritten hcalm (by rw [hact, ha]; decide)
      have hnow : off.attentionNow = (decide (s.node.inputs.changed &&& Live.attentionMask live ≠ 0)
          || channels.any (fun d => decide (d ≠ c ∧ (s.node.liveRecord d).tripped = true
                    ∧ Live.channelAction live d = actionReport))) := by
        unfold attentionNow trippedWith
        have hmask : off.attentionMask = Live.attentionMask live := if_pos hserv
        congr 1
        · rw [hmask, Bool.eq_iff_iff, bne_iff_ne, decide_eq_true_eq]
        · congr 1
          funext d
          rw [show off.liveRecord d = _ from tripWritten_liveRecord c d _ _ _, channelAction_of_inService (n := off) hserv]
          by_cases hd : c = d
          · simp [hd]
          · rw [if_neg hd, Bool.eq_iff_iff]
            simp [Ne.symm hd, off, with', live]
      refine takeStep_calm hlisten (heff.trans ?_) (m := { off with inputs := { off.inputs with attention := _ } }) hc hevent
      rw [ha]
      show { off with inputs := { off.inputs with attention := off.attentionNow } } = _
      rw [hnow]
    case none =>
      have hne : Live.channelAction live c ≠ actionReport ∧ Live.channelAction live c ≠ actionHold := by
        rcases ha with ha | ha <;> rw [ha] <;> decide
      rw [if_neg hne.1] at heff
      exact takeStep_calm hlisten heff (calm_tripWritten hcalm (by rw [hact]; exact hne.2)) hevent
    case stays =>
      rw [ha] at heff
      exact takeStep_calm hlisten heff hc hevent
    case leaves =>
      rw [ha] at heff
      have hnone : off.trippedWith actionHold = false := by
        rw [Bool.eq_false_iff]
        intro hex
        obtain ⟨d, hd, hda⟩ := (trippedWith_iff _ _).1 hex
        rw [show off.liveRecord d = _ from tripWritten_liveRecord c d _ _ _] at hd
        by_cases hcd : c = d
        · rw [if_pos hcd] at hd
          cases hd
        · rw [if_neg hcd] at hd
          exact hlast d (Ne.symm hcd) hd ((channelAction_of_inService (n := off) hserv d).symm.trans hda)
      have hout : off.wants .monitor = false := by rw [wantsMonitor, hnone, Bool.and_false]
      exact takeStep_withoutCause hlisten heff hbrakes hphase (others _ _) hout hpresent hset

end Sys2Proof.Machine
end

section
/-! The end of a frame, the acceptance filter and the completion of the head (R16 to R22, R32 to R38). -/

namespace Sys2Proof.Machine

theorem field_one (l : List Byte) (k : Nat) : field l k 1 = (byteAt l k).toNat := by
  unfold field byteAt
  rw [List.getD_eq_getElem?_getD, ← List.head?_drop]
  cases l.drop k with
  | nil => rfl
  | cons x t => simp [beNat]

theorem byteAt_drop (l : List Byte) (k j : Nat) : byteAt (l.drop k) j = byteAt l (k + j) := by
  unfold byteAt
  simp [List.getD_eq_getElem?_getD, List.getElem?_drop]

namespace Node

/-! ### A raise beside the receiver -/

/-- A raise neither reads nor writes the receiver. -/
theorem raise_withRx (k : FaultKind) (r : RxUnit) (n : Node) : raise k { n with rx := r } = { raise k n with rx := r } := by
  by_cases hbar : n.inService = false ∨ n.faults.has k = true
  · rw [raise_of_barred hbar, raise_of_barred (n := { n with rx := r }) hbar]
  obtain ⟨hs, hk⟩ := not_or.1 hbar
  simp only [Bool.not_eq_false, Bool.not_eq_true] at hs hk
  have request (m : Node) : requestHalt k { m with rx := r } = { requestHalt k m with rx := r } := by
    unfold requestHalt
    by_cases he : m.tx.halt.state = .empty
    · rw [if_pos he, if_pos he]; rfl
    · rw [if_neg he, if_neg he]
  have retire (m : Node) : retireHead .cancelled { m with rx := r } = { retireHead .cancelled m with rx := r } := by
    unfold retireHead
    cases m.cue.queue <;> rfl
  have mark (m : Node) : markHead true { m with rx := r } = { markHead true m with rx := r } := by
    unfold markHead
    cases m.cue.queue <;> rfl
  have enter (m : Node) : enterHalted { m with rx := r } = { enterHalted m with rx := r } := by
    unfold enterHalted
    by_cases hp : m.cue.phase = .stopping
    · rw [if_pos hp, if_pos hp, retire]; rfl
    · rw [if_neg hp, if_neg hp, mark]; rfl
  have latch : latched k { n with rx := r } = { latched k n with rx := r } := by
    unfold latched
    by_cases he : k = .estop
    · rw [if_pos he, if_pos he]
    · rw [if_neg he, if_neg he]
  rw [raise_eq hs hk, raise_eq (n := { n with rx := r }) hs hk, latch]
  by_cases hp : n.cue.phase = .halted
  · rw [if_pos hp, if_pos hp, request]
  · rw [if_neg hp, if_neg hp, enter]
    exact request (writeHaltRecord n.station (.fault k) (enterHalted (latched k n)))

theorem addressClash_eq (n : Node) : addressClash n = raise .address { n with rx := { n.rx with clashAge := 0 } } := by
  rw [raise_withRx]
  simp [addressClash]

/-! ### The judgement of a frame (R16) -/

/-- The part with a frame's end detected and its bytes in the store (R2, R3). -/
def frameStored (bytes : List Byte) (partialByte : Bool) (n : Node) : Node :=
  { n with rx := { n.rx with mode := .quiet, quietTime := 8, ownBurst := false, store := bytes.take 210
                             byteCount := min 211 bytes.length, partialByte } }

theorem frameEnd_collect {n : Node} (h : n.rx.mode = .collect) (bytes : List Byte) (part : Bool) :
    frameEnd bytes part n = judge n.rx.ownBurst (frameStored bytes part n) := by
  unfold frameEnd; rw [h]; rfl

theorem crcBad_iff (bytes : List Byte) (part : Bool) (n : Node) : (frameStored bytes part n).crcBad = true ↔
    210 < bytes.length ∨ part = true ∨ bytes.length ≠ (byteAt bytes 1).toNat + 10
      ∨ (crc16 (bytes.take (bytes.length - 2))).toNat ≠ field bytes (bytes.length - 2) 2 := by
  unfold crcBad frameStored frameLength
  dsimp only
  by_cases hlen : 210 < bytes.length
  · simp [hlen, show 210 < min 211 bytes.length by omega]
  · rw [show min 211 bytes.length = bytes.length by omega, List.take_of_length_le (by omega : bytes.length ≤ 210)]
    simp [hlen, or_assoc]

/-- The frame that the judgement reads, of a collected one that is not too long. -/
theorem frameStored_frame {bytes : List Byte} (part : Bool) (n : Node) (h : bytes.length ≤ 210) :
    (frameStored bytes part n).rx.store.take ((frameStored bytes part n).rx.byteCount - 2)
      = bytes.take (bytes.length - 2) := by
  show (bytes.take 210).take (min 211 bytes.length - 2) = _
  rw [List.take_of_length_le h, show min 211 bytes.length = bytes.length by omega]

theorem judge_own (n : Node) : judge true n = n := by
  unfold judge
  dsimp only
  (repeat' split) <;> first | rfl | contradiction

theorem judge_runt {n : Node} (h : n.rx.byteCount < 10) :
    judge false n = { n with counters := { n.counters with runt := n.counters.runt.bump } } := if_pos h

theorem judge_bad {n : Node} (h : ¬n.rx.byteCount < 10) (hb : n.crcBad = true) :
    judge false n = { n with counters := { n.counters with crcError := n.counters.crcError.bump } } := by
  unfold judge
  rw [if_neg h, if_pos hb]
  rfl

/-- The judgement of a good frame not the node's own, by its stages (R17, R18, R21, R32). -/
theorem judge_good {n : Node} {f : List Byte} (h : ¬n.rx.byteCount < 10) (hb : n.crcBad = false)
    (hf : n.rx.store.take (n.rx.byteCount - 2) = f) : judge false n =
      if n.clashes f then addressClash n
      else if n.cue.phase = .starting then countFiltered n
      else match n.filterVerdict f with
        | .filtered => countFiltered n
        | .unexpectedStation =>
          { n with counters := { n.counters with unexpectedStation := n.counters.unexpectedStation.bump } }
        | .accepted => if frameKind f = 4 then bypass f n else enqueue f n := by
  unfold judge
  rw [if_neg h, hb, hf]
  rfl

/-- What the receiver and the counters hold leaves a calm part calm. -/
theorem calm_received {n : Node} (r : RxUnit) (c : Counters) (h : n.Calm) : ({ n with rx := r, counters := c } : Node).Calm := h

theorem clashes_iff (n : Node) (f : List Byte) : n.clashes f = true ↔
    n.inService = true ∧ frameSource f = Live.groupTag n.cfg.live ∧ frameStation f = n.station := by
  unfold clashes groupTag live
  cases hs : n.inService <;> simp

end Node

open Node

/-- Settles O35: the judgement's stages in their order. -/
theorem frameEndJudged : Obligations.FrameEndJudged := by
  intro bytes part s hs len quiet n frame counted bad clash passed judged clashed
  have ⟨hlisten, hevent, hcalm⟩ := hs
  have hn : n = frameStored bytes part s.node := rfl
  have calm (r : RxUnit) (c : Counters) : ({ n with rx := r, counters := c } : Node).Calm := hcalm
  have step {m : Node} (h : frameEnd bytes part s.node = m) (hm : m.Calm) (he : m.statusEvent = false) :
      exec (.frameEnd bytes part) s = .next { s with node := m } := takeStep_calm hlisten h hm he
  have collect (hc : s.node.rx.mode = .collect) : frameEnd bytes part s.node = judge s.node.rx.ownBurst n :=
    frameEnd_collect hc bytes part
  have hcount : n.rx.byteCount < 10 ↔ len < 10 := by
    show min 211 len < 10 ↔ _
    omega
  have hbad : n.crcBad = true ↔ bad := crcBad_iff bytes part s.node
  have hclash : n.clashes frame = true ↔ clash := clashes_iff n frame
  have good (hp : passed) : frameEnd bytes part s.node =
      if n.clashes frame then addressClash n
      else if n.cue.phase = .starting then countFiltered n
      else match n.filterVerdict frame with
        | .filtered => countFiltered n
        | .unexpectedStation =>
          { n with counters := { n.counters with unexpectedStation := n.counters.unexpectedStation.bump } }
        | .accepted => if frameKind frame = 4 then bypass frame n else enqueue frame n := by
    obtain ⟨hcol, hown, hlen, hnot⟩ := hp
    rw [collect hcol, hown]
    refine judge_good (by rw [hcount]; omega) (Bool.eq_false_iff.2 (mt hbad.1 hnot)) ?_
    exact frameStored_frame part s.node (by by_contra h; exact hnot (.inl (by omega)))
  have clashFree (hno : ¬clash) : n.clashes frame = false := Bool.eq_false_iff.2 (mt hclash.1 hno)
  have free (hp : passed) (hno : ¬clash) (hphase : s.node.cue.phase ≠ .starting) : frameEnd bytes part s.node =
      match n.filterVerdict frame with
        | .filtered => countFiltered n
        | .unexpectedStation =>
          { n with counters := { n.counters with unexpectedStation := n.counters.unexpectedStation.bump } }
        | .accepted => if frameKind frame = 4 then bypass frame n else enqueue frame n := by
    rw [good hp, clashFree hno]
    exact if_neg (c := n.cue.phase = .starting) hphase
  have accepted (hj : judged) (hv : s.node.filterVerdict frame = .accepted) :
      frameEnd bytes part s.node = if frameKind frame = 4 then bypass frame n else enqueue frame n := by
    obtain ⟨hp, hno, hphase⟩ := hj
    rw [free hp hno hphase, show n.filterVerdict frame = .accepted from hv]
  refine ⟨?quiet, ?hunt, ?own, ?runt, ?error, ?known, ?clash, ?turned, ?unexpected, ?queued, ?halts⟩
  case quiet => exact fun h => takeStep_idle hs (by unfold frameEnd; rw [h])
  case hunt => exact fun h => step (by unfold frameEnd; rw [h]) hcalm hevent
  case own => exact fun h hown => step (by rw [collect h, hown, judge_own]) hcalm hevent
  case runt =>
    exact fun h hown hlen => step (by rw [collect h, hown, judge_runt (hcount.2 hlen)]) (calm n.rx _) hevent
  case error =>
    intro h hown hlen hb
    exact step (by rw [collect h, hown, judge_bad (by rw [hcount]; omega) (hbad.2 hb)]) (calm n.rx _) hevent
  case known =>
    intro hp hc hlatched
    refine step ?_ (calm _ n.counters) hevent
    rw [good hp, hclash.2 hc, if_pos rfl, addressClash_eq]
    exact raise_of_barred (.inr hlatched)
  case clash =>
    intro hp hc hno
    refine takeStep_raise hlisten ?_ hc.1 hno
    show frameEnd bytes part s.node = _
    rw [good hp, hclash.2 hc, if_pos rfl, addressClash_eq]
  case turned =>
    intro hp hor
    refine step ?_ (calm n.rx _) hevent
    rcases hor with hphase | ⟨⟨-, hno, hphase⟩, hv⟩
    · have hout : n.clashes frame = false := by
        unfold clashes inService
        rw [show n.cue.phase = .starting from hphase]
        rfl
      rw [good hp, hout]
      exact if_pos (c := n.cue.phase = .starting) hphase
    · rw [free hp hno hphase, show n.filterVerdict frame = .filtered from hv]
      rfl
  case unexpected =>
    intro ⟨hp, hno, hphase⟩ hv
    refine step ?_ (calm n.rx _) hevent
    rw [free hp hno hphase, show n.filterVerdict frame = .unexpectedStation from hv]
  case queued =>
    intro hj hv hk
    have he := (accepted hj hv).trans (if_neg hk)
    refine ⟨fun hroom => step (he.trans (if_pos hroom)) (calm _ n.counters) hevent, fun hfull => ?_⟩
    exact step (he.trans (if_neg (by omega))) (calm n.rx _) hevent
  case halts =>
    intro hj hv hk
    refine step ((accepted hj hv).trans ((if_pos hk).trans ?_)) (calm _ n.counters) hevent
    have hempty : n.rx.halts = [] := hlisten.2
    unfold bypass framePayload
    dsimp only
    rw [hempty, field_one, field_one, byteAt_drop, byteAt_drop]
    rfl

/-! ### The acceptance filter (R32 to R38) -/

namespace Node

theorem filterVerdict_of_header {n : Node} {f : List Byte} (h : frameVersion f = 1 ∧ 1 ≤ frameKind f ∧ frameKind f ≤ 9
    ∧ frameDestWord f < 4096 ∧ frameSourceWord f < 4096 ∧ frameStation f ≤ 31) : n.filterVerdict f =
      match n.classOf (frameDest f) with
      | .foreign => .filtered
      | .listened => if frameKind f == 2 then n.kindVerdict .listened f else .filtered
      | cls => n.kindVerdict cls f := by
  obtain ⟨hv, hk1, hk9, hd, hs, hst⟩ := h
  unfold filterVerdict
  refine if_neg ?_
  simp only [Bool.or_eq_true, bne_iff_ne, beq_iff_eq, decide_eq_true_eq]
  omega

theorem filterVerdict_of_badHeader {n : Node} {f : List Byte} (h : ¬(frameVersion f = 1 ∧ 1 ≤ frameKind f ∧ frameKind f ≤ 9
    ∧ frameDestWord f < 4096 ∧ frameSourceWord f < 4096 ∧ frameStation f ≤ 31)) : n.filterVerdict f = .filtered := by
  unfold filterVerdict
  refine if_pos ?_
  simp only [Bool.or_eq_true, bne_iff_ne, beq_iff_eq, decide_eq_true_eq]
  omega

/-- A destination is the own group's where its tag is the own one, which is not the all-call (R32). -/
theorem classOf_own {n : Node} (hg : n.groupTag ≠ 4095) (dest : Nat) :
    (n.classOf dest == .ownGroup) = decide (dest = n.groupTag) := by
  unfold classOf
  by_cases hall : dest = 4095
  · simp [hall, hg.symm]
  by_cases hown : dest = n.groupTag
  · simp [hown, hg]
  · rw [if_neg hall, if_neg hown]
    split <;> simp [hown]

/-- A frame of a kind other than CUE is judged when it is for all or for the own group (R32, R34). -/
theorem filterVerdict_near {n : Node} {f : List Byte} (h : frameVersion f = 1 ∧ 1 ≤ frameKind f ∧ frameKind f ≤ 9
    ∧ frameDestWord f < 4096 ∧ frameSourceWord f < 4096 ∧ frameStation f ≤ 31) (hk : frameKind f ≠ 2) : n.filterVerdict f =
      if frameDest f = 4095 ∨ frameDest f = n.groupTag then n.kindVerdict (n.classOf (frameDest f)) f else .filtered := by
  rw [filterVerdict_of_header h]
  unfold classOf
  by_cases hall : frameDest f = 4095
  · simp [hall]
  by_cases hown : frameDest f = n.groupTag
  · simp only [hown, or_true, if_true]
    split <;> simp_all
  · simp only [hall, hown, or_self, if_false]
    split <;> simp_all

/-- A STATUS alone is turned away for its station (R34). -/
theorem filterVerdict_ne_unexpected {n : Node} {f : List Byte} (hk : frameKind f ≠ 1) :
    n.filterVerdict f ≠ .unexpectedStation := by
  have hkind (cls : DestClass) : n.kindVerdict cls f ≠ .unexpectedStation := by
    unfold kindVerdict
    dsimp only
    split
    · contradiction
    all_goals first | (split <;> simp) | simp
  unfold filterVerdict
  split
  · simp
  split
  · simp
  · split
    · exact hkind _
    · simp
  · exact hkind _

/-- The checks of a STATUS (R34, R38). -/
theorem kindVerdict_status {n : Node} {f : List Byte} (cls : DestClass) (hk : frameKind f = 1) : n.kindVerdict cls f =
    if cls = .ownGroup ∧ n.inService = true ∧ frameLength f = 24 ∧ Phase.ofCode (field (framePayload f) 0 1) ≠ none
        ∧ CueReason.ofCode (field (framePayload f) 23 1) ≠ none ∧ frameSource f = n.groupTag then
      if frameStation f < Live.ringSize n.live ∧ Live.isFitted n.live (frameStation f) = true then .accepted
      else .unexpectedStation
    else .filtered := by
  unfold kindVerdict
  rw [hk]
  dsimp only
  rw [← ite_not]
  refine ite_congr ?_ (fun _ => ?_) (fun _ => rfl)
  · simp [and_assoc, Option.isNone_iff_eq_none]
  · rw [← ite_not]
    refine ite_congr ?_ (fun _ => rfl) (fun _ => rfl)
    simp

/-- A CUE is judged when it is for all, for the own group or for a tag listened to (R32, R33), by its length alone. -/
theorem filterVerdict_cue {n : Node} {f : List Byte} (h : frameVersion f = 1 ∧ 1 ≤ frameKind f ∧ frameKind f ≤ 9
    ∧ frameDestWord f < 4096 ∧ frameSourceWord f < 4096 ∧ frameStation f ≤ 31) (hk : frameKind f = 2) :
    n.filterVerdict f = .accepted ↔ ((frameDest f = 4095 ∨ frameDest f = n.groupTag)
        ∨ n.inService = true ∧ (Live.listenMask n.cfg.live).getLsbD (listenHash (frameDest f)) = true)
      ∧ 10 ≤ frameLength f ∧ frameLength f ≤ 68 := by
  have hkind (cls : DestClass) : n.kindVerdict cls f = .accepted ↔ 10 ≤ frameLength f ∧ frameLength f ≤ 68 := by
    unfold kindVerdict
    rw [hk]
    simp
  rw [filterVerdict_of_header h]
  unfold classOf
  by_cases hall : frameDest f = 4095
  · simp [hall, hkind]
  by_cases hown : frameDest f = n.groupTag
  · rw [if_neg hall, if_pos hown]
    simp [hown, hkind]
  rw [if_neg hall, if_neg hown]
  by_cases hl : n.inService = true ∧ (Live.listenMask n.live).getLsbD (listenHash (frameDest f)) = true
  · rw [if_pos (by simpa using hl)]
    have hl' : n.inService = true ∧ (Live.listenMask n.cfg.live).getLsbD (listenHash (frameDest f)) = true := hl
    simp [hk, hkind, hl']
  · rw [if_neg (by simpa using hl)]
    have hl' : ¬(n.inService = true ∧ (Live.listenMask n.cfg.live).getLsbD (listenHash (frameDest f)) = true) := hl
    simp [hall, hown, hl']

end Node

/-- Settles O36, kind by kind: the class of the destination first, then the kind's own checks. -/
theorem acceptanceFilter : Obligations.AcceptanceFilter := by
  intro n f hg p len dest live ownGroup near listened headerGood statusGood fitted
  refine ⟨fun h => filterVerdict_of_badHeader h, fun h => ?_⟩
  have hown : (n.classOf dest == .ownGroup) = decide ownGroup := classOf_own hg dest
  have hnear (hk : frameKind f ≠ 2) : n.filterVerdict f = if near then n.kindVerdict (n.classOf dest) f else .filtered :=
    filterVerdict_near h hk
  have owned (ho : ownGroup) : near := .inr ho
  have judged {q : Prop} {b : Bool} (hb : b = true ↔ q) (hk : frameKind f ≠ 2)
      (hv : n.kindVerdict (n.classOf dest) f = if b then .accepted else .filtered) :
      n.filterVerdict f = .accepted ↔ near ∧ q := by
    rw [hnear hk, hv]
    by_cases hn : near
    · rw [if_pos hn, ← hb]; cases b <;> simp [hn]
    · rw [if_neg hn]; simp [hn]
  have hp : p = framePayload f := rfl
  refine ⟨fun hk => ?status, fun hk => ?other, fun hk => filterVerdict_cue h hk, fun hk => ?permit, fun hk => ?halt,
    fun hk => ?clear, fun hk => ?cancel, fun hk => ?inquire, fun hk => ?report, fun hk => ?reset⟩
  case status =>
    have hstatus := kindVerdict_status (n := n) (n.classOf dest) hk
    have hcls : n.classOf dest = .ownGroup ↔ ownGroup := by
      rw [← decide_eq_true_iff (p := ownGroup), ← hown, beq_iff_eq]
    have hsame := and_congr_left (c := n.inService = true ∧ frameLength f = 24
      ∧ Phase.ofCode (field (framePayload f) 0 1) ≠ none ∧ CueReason.ofCode (field (framePayload f) 23 1) ≠ none
      ∧ frameSource f = n.groupTag) fun _ => hcls
    rw [hnear (by omega), hstatus]
    by_cases hgood : statusGood
    · rw [if_pos (owned hgood.1), if_pos (hsame.2 hgood)]
      by_cases hfit : fitted
      · rw [if_pos (by exact hfit)]; simp [hgood, hfit]
      · rw [if_neg (by exact hfit)]; simp [hgood, hfit]
    · rw [if_neg fun hall => hgood (hsame.1 hall), ite_self]
      simp [hgood]
  case other => exact filterVerdict_ne_unexpected hk
  case permit =>
    refine judged (b := len == 1 + 2 * field p 0 1 && decide (1 ≤ field p 0 1) && decide (field p 0 1 ≤ 8)
      && n.permitNames (n.classOf dest) p) ?_ (by omega) (by unfold kindVerdict; rw [hk]; rfl)
    unfold permitNames
    rw [hown]
    simp only [Bool.and_eq_true, beq_iff_eq, decide_eq_true_eq, Bool.or_eq_true, List.contains_iff_mem]
    exact ⟨fun ⟨⟨⟨hl, h1⟩, h8⟩, hn⟩ => ⟨h1, h8, hl, hn⟩, fun ⟨h1, h8, hl, hn⟩ => ⟨⟨⟨hl, h1⟩, h8⟩, hn⟩⟩
  case halt => exact judged (b := len == 2) (by simp) (by omega) (by unfold kindVerdict; rw [hk]; rfl)
  case clear => exact judged (b := len == 3) (by simp) (by omega) (by unfold kindVerdict; rw [hk]; rfl)
  case cancel => exact judged (b := len == 2) (by simp) (by omega) (by unfold kindVerdict; rw [hk]; rfl)
  case inquire =>
    refine (judged (b := n.classOf dest == .ownGroup && len == 3 && field p 0 1 == n.station) (q := ownGroup ∧ len = 3
      ∧ field p 0 1 = n.station) ?_ (by omega) (by unfold kindVerdict; rw [hk]; rfl)).trans
      ⟨fun x => x.2, fun x => ⟨owned x.1, x⟩⟩
    rw [hown]
    simp [and_assoc]
  case report =>
    rw [hnear (by omega)]
    unfold kindVerdict
    rw [hk]
    exact ite_self _
  case reset =>
    refine (judged (b := n.classOf dest == .ownGroup && len == 1 && field p 0 1 == n.station) (q := ownGroup ∧ len = 1
      ∧ field p 0 1 = n.station) ?_ (by omega) (by unfold kindVerdict; rw [hk]; rfl)).trans
      ⟨fun x => x.2, fun x => ⟨owned x.1, x⟩⟩
    rw [hown]
    simp [and_assoc]

/-- Settles O37: the completion removes the head and counts it, and no consequence reads either. -/
theorem frameCompleteCounts : Obligations.FrameCompleteCounts := by
  intro f rest s hs hq c done fate discarded
  have ⟨hlisten, hevent, hcalm⟩ := hs
  have hdis : discarded ↔ frameKind f = 2 ∧ s.node.cueDiscarded f = true := by
    refine and_congr_right fun _ => ?_
    unfold cueDiscarded framePayload
    cases hr : readCue (f.drop 8) with
    | none => simp
    | some r => simp
  let completed (x : FrameFate) : Node :=
    countFate x { s.node with rx := { s.node.rx with queue := rest, head := .initial } }
  have step {x : FrameFate} (hx : s.node.headFate = some x) : exec .frameComplete s = .next { s with node := completed x } := by
    have heff : frameComplete s.node = completed x := by
      unfold frameComplete
      rw [hx, hq]
      rfl
    exact takeStep_calm hlisten heff hcalm hevent
  have given {x : FrameFate} (h : fate = some x) : s.node.headFate = some x := by
    unfold headFate
    rw [hq, show s.node.rx.head.fate = some x from h]
  have none' (h : fate = none) : s.node.headFate = if discarded then some .filtered else none := by
    unfold headFate
    rw [hq, show s.node.rx.head.fate = none from h]
    exact if_congr hdis.symm rfl rfl
  refine ⟨fun h => step (given h), ?_, fun h => step (given h), fun h hno => ?_⟩
  · rintro (h | ⟨h, hd⟩)
    · exact step (given h)
    · exact step ((none' h).trans (if_pos hd))
  · refine takeStep_idle hs ?_
    unfold frameComplete
    rw [none' h, if_neg hno]

end Sys2Proof.Machine
end

section
/-! The transmit side (R1, R4 to R15) and the upset of the live copy (R176). -/

namespace Sys2Proof.Machine

namespace Node

/-- With one slot alone on the line, that one is found. -/
theorem sendingSlot_of {n : Node} {k : SlotKind} (h : (n.slot k).state = .sending)
    (hothers : ∀ j, j ≠ k → (n.slot j).state ≠ .sending) : n.sendingSlot = some k := by
  have hbeq (j : SlotKind) : ((n.slot j).state == .sending) = decide (j = k) := by
    by_cases hj : j = k
    · simp [hj, h]
    · simp [hj, hothers j hj]
  unfold sendingSlot
  simp only [hbeq]
  cases k <;> decide

/-- What the line side writes leaves a calm part calm. -/
theorem calm_setSlot {n : Node} (k : SlotKind) (x : Slot) (h : n.Calm) : (n.setSlot k x).Calm := by
  cases k <;> exact h

/-- The slot the arbiter takes: the first that is ready in the order of R15. -/
theorem arbiterChoice_eq {n : Node} {q : Nat} (ready : SlotKind → Prop) [DecidablePred ready]
    (h : ∀ k, ready k ↔ (n.slot k).state = .pending ∧ deferTime k ≤ q) :
    n.arbiterChoice q = if ready .halt then some .halt else if ready .status then some .status
      else if ready .report then some .report else none := by
  have hbeq (k : SlotKind) : ((n.slot k).state == .pending && decide (deferTime k ≤ q)) = decide (ready k) := by
    rw [Bool.eq_iff_iff]; simp [h k]
  unfold arbiterChoice
  simp only [hbeq, List.find?_cons, List.find?_nil]
  by_cases h1 : ready .halt <;> by_cases h2 : ready .status <;> by_cases h3 : ready .report <;> simp [h1, h2, h3]

end Node

open Node

/-- Settles O51: the arbiter's choice in its order, and its frame as cells. -/
theorem arbiterStartsSlot : Obligations.ArbiterStartsSlot := by
  intro quiet s hs hmode hidle held reached ready onLine
  have ⟨hlisten, hevent, hcalm⟩ := hs
  classical
  have hquiet : s.node.quietAt quiet = reached := by
    unfold quietAt
    by_cases hlt : held.toNat < quiet.toNat
    · rw [if_neg (by exact not_le.2 hlt)]; exact (if_pos hlt).symm
    · rw [if_pos (by exact not_lt.1 hlt)]; exact (if_neg hlt).symm
  let m : Node := { s.node with rx := { s.node.rx with quietTime := reached } }
  have heff : arbiterStart quiet s.node = if s.node.cue.phase = .starting then m
      else match m.arbiterChoice reached.toNat with
        | none => m
        | some k => startSlot k m := by
    unfold arbiterStart
    rw [sendingSlot_eq_none.2 hidle, hmode, hquiet]
    rfl
  have starts (k : SlotKind) (hphase : s.node.cue.phase ≠ .starting) (hk : m.arbiterChoice reached.toNat = some k) :
      exec (.arbiterStart quiet) s = .next { s with node := onLine k } := by
    have hstart : arbiterStart quiet s.node = onLine k := by
      rw [heff, if_neg hphase, hk]
      cases k <;> rfl
    refine takeStep_calm hlisten hstart ?_ ?_
    · cases k <;> exact hcalm
    · cases k <;> exact hevent
  have choice (hphase : s.node.cue.phase ≠ .starting) : m.arbiterChoice reached.toNat =
      if ready .halt then some .halt else if ready .status then some .status
      else if ready .report then some .report else none := by
    refine arbiterChoice_eq ready fun k => ?_
    cases k <;> exact and_iff_right hphase
  refine ⟨fun h => ?_, fun hh h => ?_, fun hh hst h => ?_, fun h => ?_⟩
  · exact starts .halt h.1 (by rw [choice h.1, if_pos h])
  · exact starts .status h.1 (by rw [choice h.1, if_neg hh, if_pos h])
  · exact starts .report h.1 (by rw [choice h.1, if_neg hh, if_neg hst, if_pos h])
  · refine takeStep_calm hlisten (heff.trans ?_) hcalm hevent
    by_cases hphase : s.node.cue.phase = .starting
    · exact if_pos hphase
    · rw [if_neg hphase, choice hphase, if_neg (h _), if_neg (h _), if_neg (h _)]

/-- The jam is 32 cells of alternating value, the first a 1 (R1, R7). -/
theorem jamCells_eq : jamCells = (List.range 32).map (fun i => { first := i % 2 == 0, second := i % 2 == 1 }) := by
  decide

/-- Settles O52: the slot on the line is released and counted, or collides and jams. -/
theorem transmissionEndsOrCollides : Obligations.TransmissionEndsOrCollides := by
  intro k cell s ⟨hlisten, hevent, hcalm⟩ hsend hothers hjam x c late after sent
  have hslot : s.node.sendingSlot = some k := sendingSlot_of hsend hothers
  refine ⟨?_, ?_⟩
  · have heff : transmitSuccess s.node = { s.node.setSlot k after with
        tx := { (s.node.setSlot k after).tx with driving := [], jam := none }
        rx := { s.node.rx with quietTime := 0 }, counters := sent } := by
      unfold transmitSuccess
      rw [hslot, hjam]
      cases k <;> rfl
    refine takeStep_calm hlisten heff ?_ ?_
    · cases k <;> exact hcalm
    · cases k <;> exact hevent
  · intro isLate hlate hit
    have hl : collisionLate cell = isLate := by
      rw [Bool.eq_iff_iff, hlate]
      unfold collisionLate
      cases cell with
      | none => simp [late]
      | some i => simp [late]
    have heff : collision cell s.node = { hit with
        tx := { hit.tx with
          driving := (List.range 32).map (fun i => { first := i % 2 == 0, second := i % 2 == 1 }), jam := some isLate }
        rx := { s.node.rx with quietTime := 0 }
        counters := { c with
          collisions := c.collisions.bump
          lateCollisions := if isLate then c.lateCollisions.bump else c.lateCollisions } } := by
      unfold collision
      rw [hslot, hjam, ← jamCells_eq]
      dsimp only
      rw [hl]
      cases k <;> rfl
    refine takeStep_calm hlisten heff ?_ ?_
    · cases k <;> exact hcalm
    · cases k <;> exact hevent

/-- Settles O53: a HALT always backs off, and any other drops when late or at its tenth collision. -/
theorem jamEndsInBackoffOrDrop : Obligations.JamEndsInBackoffOrDrop := by
  refine ⟨?_, ?_⟩
  · intro k late s ⟨hlisten, hevent, hcalm⟩ hsend hothers hjam x g g' r drops dropped waits
    have hslot : s.node.sendingSlot = some k := sendingSlot_of hsend hothers
    have heff : jamEnd s.node = if k = .halt then backOff k s.node
        else if late then releaseSlot k s.node
        else if 10 ≤ x.collisions.toNat then
          releaseSlot k { s.node with counters := { s.node.counters with retryDrops := s.node.counters.retryDrops.bump } }
        else backOff k s.node := by
      unfold jamEnd
      rw [hslot, hjam]
    refine ⟨fun hno => ?_, fun hdrop => ?_⟩
    · have hback : jamEnd s.node = backOff k s.node := by
        rw [heff]
        by_cases hk : k = .halt
        · exact if_pos hk
        · have hl : ¬late = true := fun h => hno ⟨hk, .inl h⟩
          have ht : ¬10 ≤ x.collisions.toNat := fun h => hno ⟨hk, .inr h⟩
          rw [if_neg hk, if_neg hl, if_neg ht]
      have hwaits : jamEnd s.node = { s.node.setSlot k waits with
            tx := { (s.node.setSlot k waits).tx with random := g', driving := [], jam := none }
            rx := { s.node.rx with quietTime := 0 } } := by
        rw [hback]
        cases k <;> rfl
      refine takeStep_calm hlisten hwaits ?_ ?_
      · cases k <;> exact hcalm
      · cases k <;> exact hevent
    · obtain ⟨hk, hwhy⟩ := hdrop
      have hdropped : jamEnd s.node = { s.node.setSlot k dropped with
              tx := { (s.node.setSlot k dropped).tx with driving := [], jam := none }
              rx := { s.node.rx with quietTime := 0 }
              counters := { s.node.counters with
                retryDrops := if late then s.node.counters.retryDrops else s.node.counters.retryDrops.bump } } := by
        rw [heff, if_neg hk]
        cases hl : late with
        | true => cases k <;> rfl
        | false =>
          have ht : 10 ≤ x.collisions.toNat := hwhy.resolve_left (by simp [hl])
          rw [if_pos ht]
          cases k <;> rfl
      refine takeStep_calm hlisten hdropped ?_ ?_
      · cases k <;> exact hcalm
      · cases k <;> exact hevent
  · intro k t s ⟨hlisten, hevent, hcalm⟩ hwait
    have heff : backoffEnd k s.node = s.node.setSlot k { s.node.slot k with state := .pending } := by
      unfold backoffEnd
      rw [hwait]
    exact takeStep_calm hlisten heff (calm_setSlot _ _ hcalm) ((setSlot_statusEvent _ _ _).trans hevent)

/-! ### The upset of the live copy (R176) -/

theorem byteAt_set_ne {l : List Byte} {i j : Nat} (v : Byte) (h : j ≠ i) : byteAt (l.set i v) j = byteAt l j := by
  unfold byteAt
  simp [List.getD_eq_getElem?_getD, List.getElem?_set_ne h.symm]

/-- Between ticks a towed ring has not arrived (R106), so no arrival reads the live copy. -/
theorem Node.axisArrived_between (a : Axis) (n : Node) : axisArrived false a n =
    (!n.headMoves a || (n.release a == some .released
      && (if a == .ring && n.ringMode == .towed then false else (n.planner a).setpoint == (n.planner a).target))) := by
  unfold axisArrived
  rw [Bool.false_and]

/-- No consequence between ticks reads bytes 21 to 79 of the live copy. -/
theorem Node.calm_alter {n : Node} {address : Nat} (value : Byte) (h : n.Calm) (ha : 21 ≤ address) :
    ({ n with cfg := { n.cfg with live := n.cfg.live.set address value } } : Node).Calm := by
  set m : Node := { n with cfg := { n.cfg with live := n.cfg.live.set address value } }
  have hact : m.channelAction = n.channelAction := by
    funext c
    have hbyte : byteAt m.live (13 + c) = byteAt n.live (13 + c) := byteAt_set_ne value (by omega)
    unfold channelAction Live.channelAction
    rw [hbyte]
    rfl
  have hphase : m.phaseConsequence false = n.phaseConsequence false := by
    unfold phaseConsequence
    simp only [axisArrived_between]
    rfl
  refine calm_of_brakes (brakesFollow_of_calm (n := n) h) ?_ (hphase.trans (phaseConsequence_of_done h))
  refine Eq.trans (HoldSet.ext_has fun c => ?_) (holds_of_calm h).symm
  rw [wantedHolds_has, wantedHolds_has]
  cases c
  case monitor =>
    show (n.inService && m.trippedWith actionHold) = (n.inService && n.trippedWith actionHold)
    unfold trippedWith
    rw [hact]
    rfl
  all_goals rfl

theorem Node.takeDue_recheck {n : Node} (h : .recheck ∈ n.due) : takeDue .recheck n =
    raiseIf (digestOf n.cfg.live != n.cfg.startDigest) .config { n with
      due := n.due.filter (fun d => d ≠ .recheck)
      cfg := { n.cfg with lastDigest := digestOf n.cfg.live, recheck := some 256 } } := by
  rw [takeDue_of_mem h, dropDue_eq]
  rfl

theorem Node.alterLiveCopy_of {n : Node} {address : Nat} (value : Byte) (h : n.inService = true) (hlow : 21 ≤ address)
    (hhigh : address ≤ 79) :
    alterLiveCopy address value n = { n with cfg := { n.cfg with live := n.cfg.live.set address value } } :=
  if_pos ⟨h, hlow, hhigh⟩

/-- Settles O54: one byte is written; the recheck stores the digest and raises CONFIG where it differs. -/
theorem upsetIsFoundAtRecheck : Obligations.UpsetIsFoundAtRecheck := by
  refine ⟨fun address value s ⟨hlisten, hevent, hcalm⟩ hserv hlow hhigh => ?_, ?_⟩
  · refine ⟨s.node.cfg.live.set address value, ?_, List.length_set, fun hin => ?_, fun i hi => byteAt_set_ne value hi⟩
    · exact takeStep_calm hlisten (alterLiveCopy_of value hserv hlow hhigh) (calm_alter value hcalm hlow) hevent
    · unfold byteAt
      rw [List.getD_eq_getElem _ _ hin, List.getElem_set_self]
  · intro s ⟨hlisten, hevent, hcalm⟩ hdue digest n
    have heff : takeDue .recheck s.node = raiseIf (digest != s.node.cfg.startDigest) .config n := takeDue_recheck hdue
    refine ⟨fun hquiet => takeStep_calm hlisten (heff.trans ?_) hcalm hevent, fun hne hserv hno => ?_⟩
    · rcases hquiet with heq | hbar
      · rw [heq]; simp [raiseIf]
      · exact raiseIf_of_barred _ hbar
    · refine takeStep_raise hlisten (heff.trans ?_) hserv hno
      rw [bne_iff_ne.2 hne]
      rfl

end Sys2Proof.Machine
end

section
/-! Faults and halts (R117 to R123), and the parts of CLEAR and CANCEL (R81 to R83, R126, R127, R136, R156). -/

namespace Sys2Proof.Machine

open Node

/-- Settles O21, by whether the fault is barred. -/
theorem raisedFaultHalts : Obligations.RaisedFaultHalts := by
  intro k n
  refine ⟨fun h => raise_of_barred ?_, fun hs hc hk => raise_taken ((inService_iff n).2 ⟨hs, hc⟩) hk⟩
  rcases h with h | h | h
  · exact .inl (by unfold inService; rw [h]; rfl)
  · exact .inl (by unfold inService; rw [h]; rfl)
  · exact .inr h

/-! ### HALT (R21, R123) -/

/-- With one accepted HALT waiting, its delivery is all the deliveries. -/
theorem Node.deliverHalts_one {n : Node} {m : HaltMessage} (h : n.rx.halts = [m]) :
    n.deliverHalts = finish false n.deliverHalt := by
  unfold deliverHalts
  rw [h]
  rfl

/-- Settles O45: HALT delivers the oldest, and any other command delivers what waits before its own effect. -/
theorem haltDelivered : Obligations.HaltDelivered := by
  refine ⟨?_, ?_⟩
  · intro m rest s hlow hevent hcalm hhalts n
    have hexec (b : Node) (hb : finish false (deliverHalt s.node) = b) : exec .halt s = .next { s with node := b } := by
      show Host.Outcome.next _ = _
      rw [hlow, hb]
      rfl
    have hdel : deliverHalt s.node = takeHalt m { s.node with rx := { s.node.rx with halts := rest } } := by
      unfold deliverHalt
      rw [hhalts]
    refine ⟨fun hnone => hexec _ ?_, fun hphase hserv => ⟨_, hexec _ rfl, ?_⟩⟩
    · have htake : deliverHalt s.node = n := by
        rw [hdel]
        unfold takeHalt
        refine if_neg ?_
        rcases hnone with h | h
        · simp [h]
        · rw [Bool.and_eq_true]
          exact fun x => absurd (h.symm.trans x.1) (by decide)
      rw [htake]
      exact finish_of_none hcalm hevent
    · rw [hdel]
      exact takeHalt_taken (n := { s.node with rx := { s.node.rx with halts := rest } }) hserv hphase
  · intro c m s t hlow hhalts hc hreset hpower ht
    have hnode : t = { s with node := s.node.deliverHalts } := by
      rw [deliverHalts_one hhalts]
      change Host.Outcome.next _ = _ at ht
      rw [hlow] at ht
      exact (Host.Outcome.next.inj ht).symm
    have hempty : s.node.deliverHalts.rx.halts = [] := by
      rw [deliverHalts_one hhalts, finish_rx]
      obtain ⟨l, e⟩ := deliverHalt_rx s.node
      unfold deliverHalt
      rw [hhalts]
      unfold takeHalt
      dsimp only
      split <;> simp [writeHaltRecord]
    have hlow' : s.node.deliverHalts.rstnLow = false := by
      rw [deliverHalts_one hhalts, finish_rstnLow, ← hlow]
      unfold deliverHalt
      rw [hhalts]
      unfold takeHalt
      dsimp only
      split <;> simp [writeHaltRecord]
    subst hnode
    by_cases hown : Instr.IsOwnStep c
    · rcases hown with ⟨straps, pins, rfl⟩ | rfl | ⟨order, rfl⟩ | rfl
      · exact absurd rfl (hpower straps pins)
      · exact absurd rfl hreset
      · show Host.Outcome.next _ = Host.Outcome.next _
        dsimp only
        rw [hlow, hlow', deliverHalts_nil hempty]
        rfl
      · exact absurd rfl hc
    · rw [exec_eq_takeStep hown, exec_eq_takeStep hown]
      unfold takeStep
      dsimp only
      rw [hlow, hlow', deliverHalts_nil hempty]
      rfl

/-! ### What no consequence reads -/

/-- What follows of itself reads of the Cue Controller the phase, the head, the releases, the holds and the permit alone. -/
theorem Node.nextConsequence_congr {m n : Node} (tick : Bool) (phase : m.cue.phase = n.cue.phase := by rfl)
    (head : m.headCue = n.headCue := by rfl) (ramping : m.cue.ramping = n.cue.ramping := by rfl)
    (ringRelease : m.cue.ringRelease = n.cue.ringRelease := by rfl)
    (tiltRelease : m.cue.tiltRelease = n.cue.tiltRelease := by rfl) (holds : m.cue.holds = n.cue.holds := by rfl)
    (permit : m.cue.permit = n.cue.permit := by rfl) (ring : m.ring = n.ring := by rfl) (tilt : m.tilt = n.tilt := by rfl)
    (mode : m.ringMode = n.ringMode := by rfl) (faults : m.faults = n.faults := by rfl) (peers : m.peers = n.peers := by rfl)
    (drive : m.drive = n.drive := by rfl) (inputs : m.inputs = n.inputs := by rfl)
    (monitor : m.monitor = n.monitor := by rfl) (cfg : m.cfg = n.cfg := by rfl) :
    m.nextConsequence tick = n.nextConsequence tick := by
  have hrel (a : Axis) : m.release a = n.release a := by cases a <;> assumption
  have hplan (a : Axis) : m.planner a = n.planner a := by cases a <;> assumption
  have hmove (a : Axis) : m.headMove a = n.headMove a := by unfold headMove; rw [head]
  have hmoves (a : Axis) : m.headMoves a = n.headMoves a := by unfold headMoves; rw [hmove]
  have hserv : m.inService = n.inService := by unfold inService; rw [phase]
  have hbrake (a : Axis) : m.brakeCommand a = n.brakeCommand a := by
    unfold brakeCommand estopLatched
    rw [faults, hmoves, phase, hrel, ramping, hplan, mode]
  have hact (c : Fin 8) : m.channelAction c = n.channelAction c := by unfold channelAction live; rw [hserv, cfg]
  have htripped (x : Nat) : m.trippedWith x = n.trippedWith x := by
    unfold trippedWith liveRecord
    simp only [hact, monitor]
  have hwanted : m.wantedHolds = n.wantedHolds := by
    unfold wantedHolds peerSilent deckClear seatsStowed level
    rw [permit, hserv, peers, inputs, hmoves, htripped]
  have hmeasured (a : Axis) : m.measured a = n.measured a := by
    unfold measured homeOffset live
    rw [drive, hserv, cfg]
  have harrived (a : Axis) : axisArrived tick a m = axisArrived tick a n := by
    unfold axisArrived live
    rw [hmoves, hrel, mode, hmeasured, ring, cfg, hplan]
  have hcurrent : m.currentCue = n.currentCue := by unfold currentCue; rw [head]
  have hphase : m.phaseConsequence tick = n.phaseConsequence tick := by
    unfold phaseConsequence allFresh refusedByPeer allArmed headAtRest allDone station
    simp only [phase, head, faults, peers, hcurrent, permit, holds, harrived, hmoves, ring, tilt, ramping, cfg]
  unfold nextConsequence
  rw [hbrake, hbrake, drive, hwanted, holds, hphase]

/-! ### CLEAR (R30, R126, R136, R156) -/

namespace Node

theorem clearsFaults_iff (f : List Byte) : clearsFaults f = true ↔ (byteAt f 8).getLsbD 0 = true := by
  unfold clearsFaults framePayload
  rw [byteAt_drop]

/-- A CLEAR closes once every part it carries is taken (R39). -/
theorem closeClear_eq {n : Node} (f : List Byte) (h : n.rx.head.fate = none) : closeClear f n =
    { n with rx := { n.rx with head := { n.rx.head with fate :=
      if n.rx.head.latchDone = true ∧ (¬(byteAt f 8).getLsbD 0 = true
        ∨ n.rx.head.faultDone = true ∧ n.rx.head.towDone = true) then some .accepted else none } } } := by
  have hcond : (n.rx.head.latchDone && (!clearsFaults f || (n.rx.head.faultDone && n.rx.head.towDone))) = true ↔
      n.rx.head.latchDone = true ∧ (¬(byteAt f 8).getLsbD 0 = true
        ∨ n.rx.head.faultDone = true ∧ n.rx.head.towDone = true) := by
    rw [← clearsFaults_iff]
    simp
  have hfate : { n.rx.head with fate := none } = n.rx.head := by rw [← h]
  unfold closeClear
  dsimp only
  split
  next hc => rw [if_pos (hcond.1 hc)]; rfl
  next hc => rw [if_neg (mt hcond.2 hc), hfate]

end Node

/-- Settles O46: each part writes its own block and its own mark at the head. -/
theorem clearLatchAndTowParts : Obligations.ClearLatchAndTowParts := by
  intro f rest s hs hq hkind hfate mask value carries h worked changed latched towEnds ring underWay driven h1 h2 hh1 hh2
  have ⟨hlisten, hevent, hcalm⟩ := hs
  have hclears : clearsFaults f = true ↔ carries := clearsFaults_iff f
  have hbne (x : Byte) : (x != 0) = decide (x ≠ 0) := by rw [Bool.eq_iff_iff, bne_iff_ne, decide_eq_true_eq]
  have tow (hc : carries) (ht : h.towDone = false) (m : Node) (hm : clearTow s.node = m) (hmf : m.rx.head.fate = none)
      (hml : m.rx.head.latchDone = h.latchDone) (hmd : m.rx.head.faultDone = h.faultDone) : applyClearTow s.node =
        { m with rx := { m.rx with head := { m.rx.head with towDone := true, fate := h2.fate } } } := by
    unfold applyClearTow
    rw [withHead_of_head hq hkind hfate, if_neg (by simp [hclears.2 hc, show s.node.rx.head.towDone = false from ht])]
    dsimp only
    rw [hm, closeClear_eq f (by exact hmf), hh2]
    dsimp only
    rw [hml, hmd]
    simp [show (byteAt f 8).getLsbD 0 = true from hc]
  refine ⟨fun hl => ?latch, fun hc ht hno => ?stays, fun hc ht hyes hphase => ?ends, fun hno => ?none⟩
  case latch =>
    have heff : applyClearLatch s.node = worked h1 latched := by
      unfold applyClearLatch
      rw [withHead_of_head hq hkind hfate, if_neg (by simp [show s.node.rx.head.latchDone = false from hl])]
      dsimp only
      rw [closeClear_eq f (by exact hfate), hh1]
      unfold clearLatches attentionNow framePayload
      dsimp only
      rw [hbne, byteAt_drop, byteAt_drop]
      simp only [true_and]
      rfl
    exact takeStep_calm hlisten heff hcalm hevent
  case stays =>
    have hnone : clearTow s.node = s.node := by
      refine if_neg fun hall => hno ?_
      obtain ⟨hwhere, hrest⟩ := hall
      refine ⟨?_, hrest⟩
      simpa [haltedStopped] using hwhere
    refine takeStep_calm hlisten ((tow hc ht s.node hnone hfate rfl rfl).trans ?_) hcalm hevent
    rw [hh2]
  case ends =>
    intro after hset
    have hdriven : clearTow s.node =
        { driven with rx := { s.node.rx with head := { h with breach := some s.node.towBreach } }, statusEvent := true } := by
      unfold clearTow
      obtain ⟨hwhere, hrest⟩ := hyes
      rw [if_pos ⟨by simpa [haltedStopped] using hwhere, hrest⟩]
      unfold note
      rw [if_neg (by exact hphase)]
      have hway : (s.node.cue.phase.inMotion && s.node.headMoves .ring) = true ↔ underWay := by simp [underWay]
      simp only [hway, driven]
      rfl
    subst hh2
    exact takeStep_event hlisten ((tow hc ht _ hdriven hfate rfl rfl).trans rfl) hset
  case none =>
    have hclear : clearsFaults f = false := Bool.eq_false_iff.2 (mt hclears.1 hno)
    refine ⟨takeStep_idle hs ?_, takeStep_idle hs ?_⟩
    · unfold applyClearTow
      rw [withHead_of_head hq hkind hfate, if_pos (by simp [hclear])]
    · unfold applyClearFault
      rw [withHead_of_head hq hkind hfate, if_pos (by simp [hclear])]

theorem FaultSet.ext_has {f g : FaultSet} (h : ∀ k, f.has k = true ↔ g.has k = true) : f = g := by
  refine BitVec.eq_of_getLsbD_eq fun i hi => ?_
  have hk (k : FaultKind) (e : k.bit = i) : f.getLsbD i = g.getLsbD i := by
    rw [Bool.eq_iff_iff, ← e]
    exact h k
  have hcase : ∃ k : FaultKind, k.bit = i := by
    have : ∀ j : Fin 13, ∃ k ∈ FaultKind.all, k.bit = j.val := by decide
    obtain ⟨k, -, e⟩ := this ⟨i, hi⟩
    exact ⟨k, e⟩
  obtain ⟨k, e⟩ := hcase
  exact hk k e

/-- The fault part in HALTED stopped (R126): an emptied set takes the wagon to IDLE. -/
theorem Node.clearFaults_stopped {n : Node} {kept : FaultSet} (hst : n.cue.phase = .halted ∧ n.cue.ramping = false)
    (hkeep : n.faults.keep (fun k => !n.faultAbsent k) = kept) : clearFaults n =
      let m : Node := { n with faults := kept, statusEvent := n.statusEvent || decide (kept ≠ n.faults) }
      if kept = 0 then { m with
        rx := { n.rx with head := { n.rx.head with freed := true } }
        cue := { n.cue with phase := .idle, armRunning := false, ringRelease := none, tiltRelease := none }
        statusEvent := true } else m := by
  have hpart : (if kept = n.faults then n else ({ n with faults := kept } : Node).note) =
      { n with faults := kept, statusEvent := n.statusEvent || decide (kept ≠ n.faults) } := by
    by_cases hsame : kept = n.faults
    · rw [if_pos hsame, decide_eq_false (not_not.2 hsame), Bool.or_false, hsame]
    · rw [if_neg hsame, decide_eq_true hsame, Bool.or_true]
      exact if_neg (by show ¬n.cue.phase = .starting; rw [hst.1]; decide)
  unfold clearFaults
  rw [if_pos (by simp [haltedStopped, hst]), hkeep]
  dsimp only
  rw [hpart]
  rfl

/-- Settles O47: the faults kept are those whose condition still holds. -/
theorem clearFaultPart : Obligations.ClearFaultPart := by
  intro f rest s hs hq hkind hfate hcarries hundone n head absent stopped kept hkept cleared idle
  have ⟨hlisten, hevent, hcalm⟩ := hs
  have habsent (k : FaultKind) : n.faultAbsent k = true ↔ absent k := by
    cases k
    case tow =>
      show (!n.rx.head.breach.getD n.towBreach) = true ↔ n.rx.head.breach = some false ∨ n.rx.head.breach = none ∧ n.towBreach = false
      cases n.rx.head.breach with
      | none => simp
      | some b => simp
    case address => exact decide_eq_true_iff
    case follow => exact ⟨fun _ => trivial, fun _ => rfl⟩
    case pinch => exact ⟨fun _ => trivial, fun _ => rfl⟩
    case skew => exact ⟨fun _ => trivial, fun _ => rfl⟩
    all_goals simp [faultAbsent, absent, chainClosed, upLimit, downLimit, driveReady, brakeAgrees, brakeLifted, axisDrive]
  have hkeep : n.faults.keep (fun k => !n.faultAbsent k) = kept := by
    refine FaultSet.ext_has fun k => ?_
    rw [FaultSet.has_keep, hkept, ← habsent]
    simp
  have heff (m : Node) (hm : clearFaults n = m) (hmf : m.rx.head.fate = none)
      (hml : m.rx.head.latchDone = n.rx.head.latchDone) (hmt : m.rx.head.towDone = n.rx.head.towDone) :
      applyClearFault s.node =
        { m with rx := { m.rx with head := { m.rx.head with faultDone := true, fate := head.fate } } } := by
    unfold applyClearFault
    rw [withHead_of_head hq hkind hfate, if_neg (by simp [(clearsFaults_iff f).2 hcarries, hundone])]
    dsimp only
    rw [show clearFaults s.node = m from hm, closeClear_eq f (by exact hmf)]
    dsimp only [head]
    rw [hml, hmt]
    simp [hcarries]
  have hstopped : n.haltedStopped = true ↔ stopped := by simp [haltedStopped, stopped]
  refine ⟨fun hno => ?_, fun hst hsame hne => ?_, fun hst hdiff hne hset => ?_, fun hst hzero hset => ?_⟩
  · exact takeStep_calm hlisten (heff n (if_neg (mt hstopped.1 hno)) hfate rfl rfl) hcalm hevent
  · have hpart := clearFaults_stopped hst hkeep
    rw [if_neg hne, decide_eq_false (not_not.2 hsame), Bool.or_false] at hpart
    refine takeStep_calm hlisten ((heff _ hpart hfate rfl rfl).trans rfl) ?_ hevent
    exact (nextConsequence_congr false (m := cleared) (n := n) (faults := hsame)).trans hcalm
  · have hpart := clearFaults_stopped hst hkeep
    rw [if_neg hne, decide_eq_true hdiff, Bool.or_true] at hpart
    exact takeStep_event hlisten ((heff _ hpart hfate rfl rfl).trans rfl) hset
  · have hpart := clearFaults_stopped hst hkeep
    rw [if_pos hzero] at hpart
    exact takeStep_event hlisten ((heff _ hpart hfate rfl rfl).trans rfl) hset

end Sys2Proof.Machine
end

section
/-! CANCEL (R81 to R83), a STATUS taken (R44, R139), and the CUE's reading and judgement (R28, R40, R66 to R71). -/

namespace Sys2Proof.Machine

open Node

/-! ### CANCEL -/

/-- The part with the head of the receive queue finished with. -/
def Node.fated (x : FrameFate) (n : Node) : Node := { n with rx := { n.rx with head := { n.rx.head with fate := some x } } }

/-- Settles O48, by the cue named and the phase. -/
theorem cancelActs : Obligations.CancelActs := by
  intro f rest s hs hq hkind hfate id n retired without
  have ⟨hlisten, hevent, hcalm⟩ := hs
  have heff : applyCancel s.node = setFate .accepted (cancelCue id s.node) := withHead_of_head hq hkind hfate
  have stands (h : cancelCue id s.node = s.node) : exec .cancel s = .next { s with node := n } :=
    takeStep_calm hlisten (heff.trans (by rw [h]; rfl)) hcalm hevent
  refine ⟨fun hempty => stands ?_, fun c others hcues => ?_⟩
  · unfold cancelCue
    rw [hempty]
  have named (h : c.id = id) : cancelCue id s.node = cancelHead s.node := by
    unfold cancelCue
    rw [hcues]
    exact if_pos h
  have hretire : retireHead .cancelled s.node = { s.node with
      cue := { s.node.cue with queue := others
                               retired := (s.node.cue.retired ++ [Retired.mk c.id .cancelled]).drop
                                 ((s.node.cue.retired ++ [Retired.mk c.id .cancelled]).length - 4) }
      counters := { s.node.counters with retiredCancelled := s.node.counters.retiredCancelled.bump } } := by
    unfold retireHead
    rw [hcues]
    rfl
  refine ⟨fun hne hnone => stands ?_, fun hne hsome => ?_, fun hid hp hc => ?_, ?_, ?_, fun hid hp => stands ?_⟩
  · unfold cancelCue
    rw [hcues]
    dsimp only
    rw [if_neg hne, if_neg]
    simpa using hnone
  · have hcancel : cancelCue id s.node = pushRetired id .cancelled
        { s.node with cue := { s.node.cue with queue := c :: others.filter (fun x => decide (x.id ≠ id)) } } := by
      have hbne : (fun x : Cue => x.id != id) = fun x => decide (x.id ≠ id) := by
        funext x
        rw [Bool.eq_iff_iff, bne_iff_ne, decide_eq_true_eq]
      unfold cancelCue
      rw [hcues]
      dsimp only
      rw [if_neg hne, if_pos (by simpa using hsome), hbne]
    refine takeStep_calm hlisten (heff.trans (by rw [hcancel]; rfl)) ?_ hevent
    refine (nextConsequence_congr false (n := s.node) (head := ?_)).trans hcalm
    unfold headCue
    rw [hcues]
    rfl
  · have hhead : cancelHead s.node = retireHead .cancelled s.node := by
      unfold cancelHead
      rcases hp with hp | hp <;> rw [hp]
    refine takeStep_calm hlisten (heff.trans ?_) hc hevent
    rw [named hid, hhead, hretire, hid]
    rfl
  · intro hid hp m hset
    have hhead : cancelHead s.node = setPhase .idle (retireHead .cancelled s.node) := by
      unfold cancelHead
      rw [hp]
    refine takeStep_event hlisten (heff.trans ?_) hset
    rw [named hid, hhead, hretire, hid]
    rfl
  · intro hid hp m hset
    have hhead : cancelHead s.node = setPhase .stopping s.node := by
      unfold cancelHead
      rcases hp with hp | hp <;> rw [hp]
    refine takeStep_event hlisten (heff.trans ?_) hset
    rw [named hid, hhead]
    rfl
  · rw [named hid]
    unfold cancelHead
    rcases hp with hp | hp | hp <;> rw [hp]

/-! ### A STATUS taken (R44) -/

theorem Node.statusIsNew_iff (e : Entry) (seq : BitVec 8) : statusIsNew e seq = true ↔
    e.freshness = .absent ∨ e.freshness = .lost ∨ (1 ≤ (seq - e.lastSeq).toNat ∧ (seq - e.lastSeq).toNat ≤ 127) := by
  unfold statusIsNew
  cases e.freshness <;> simp

/-- Settles O38: an old STATUS is discarded; a new one replaces the entry, and the towed set is judged when it has changed. -/
theorem statusTakenOrOld : Obligations.StatusTakenOrOld := by
  intro f rest e s hs hq hkind hfate hentry hstale hlost ahead new fated n ringMoves judged
  have ⟨hlisten, hevent, hcalm⟩ := hs
  have hnew : statusIsNew e (frameSeq f) = true ↔ new := statusIsNew_iff e _
  have heff : applyStatus s.node = if statusIsNew e (frameSeq f) then
      setFate .accepted (takeStatus (frameStation f) f s.node) else setFate .old s.node := by
    unfold applyStatus
    rw [withHead_of_head hq hkind hfate]
    dsimp only
    rw [hentry]
  have hheard : heardStatus (frameStation f) f s.node = { s.node with peers := n.peers } := by
    have hout : (s.node.due.contains (.peerStale (frameStation f)) || s.node.due.contains (.peerLost (frameStation f)))
        = false := by
      rw [Bool.or_eq_false_iff]
      exact ⟨by simpa using hstale, by simpa using hlost⟩
    unfold heardStatus statusEntry
    rw [putEntry_eq, dropDue_of_not_mem (d := .peerLost _) (by exact hlost), dropDue_of_not_mem (by exact hstale), hout]
    rfl
  have hmoves : (s.node.cue.phase.inMotion && s.node.headMoves .ring) = true ↔ ringMoves := by
    rw [Bool.and_eq_true, inMotion_iff]
  have taken (h : new) : applyStatus s.node =
      if n.towedSet = s.node.towedSet then n
      else raiseIf (s.node.cue.phase.inMotion && s.node.headMoves .ring && n.towBreach) .tow n := by
    rw [heff, if_pos (hnew.2 h), takeStatus_eq, hheard]
    by_cases hsame : n.towedSet = s.node.towedSet
    · rw [if_pos hsame, if_pos (by exact hsame)]; rfl
    · rw [if_neg hsame, if_neg (by exact hsame)]
      show setFate .accepted (raiseIf (s.node.cue.phase.inMotion && s.node.headMoves .ring && n.towBreach) .tow _) = _
      cases s.node.cue.phase.inMotion && s.node.headMoves .ring && n.towBreach with
      | false => rfl
      | true =>
        show setFate .accepted (raise .tow _) = raise .tow { ({ s.node with peers := n.peers } : Node) with rx := n.rx }
        rw [raise_withRx]
        unfold setFate
        rw [raise_rx]
  have quiet (h : new) (hno : ¬judged) : applyStatus s.node = n := by
    rw [taken h]
    by_cases hsame : n.towedSet = s.node.towedSet
    · exact if_pos hsame
    · have hfalse : (s.node.cue.phase.inMotion && s.node.headMoves .ring && n.towBreach) = false := by
        rw [Bool.eq_false_iff, ne_eq, Bool.and_eq_true]
        exact fun ⟨hm, hb⟩ => hno ⟨hsame, hmoves.1 hm, hb⟩
      rw [if_neg hsame, hfalse]
      rfl
  refine ⟨fun hold => ?_, fun h hno hc => takeStep_calm hlisten (quiet h hno) hc hevent, fun h hno hpeer hsilent hset => ?_,
    fun h hj hno => ?_⟩
  · exact takeStep_calm hlisten (heff.trans (if_neg (mt hnew.1 hold))) hcalm hevent
  · have hwant := (holds_has_of_calm hcalm .peer).symm.trans hpeer
    have hserv : s.node.inService = true := (Bool.and_eq_true_iff.1 hwant).1
    have hothers (c : HoldCause) (hc : c ≠ .peer) : n.wants c = n.cue.holds.has c := by
      refine Eq.trans ?_ (holds_has_of_calm hcalm c).symm
      cases c <;> first | rfl | exact absurd rfl hc
    refine takeStep_withoutCause hlisten (quiet h hno) (brakesFollow_of_calm (n := s.node) hcalm) ((inService_iff _).1 hserv).1
      hothers ?_ hpeer hset
    show (n.inService && n.peerSilent) = false
    rw [hsilent, Bool.and_false]
  · obtain ⟨hdiff, hmov, hbreach⟩ := hj
    refine takeStep_raise hlisten ?_ (inService_of_inMotion (n := n) ((inMotion_iff _).2 hmov.1)) hno
    rw [taken h, if_neg hdiff, hmoves.2 hmov, hbreach]
    rfl

/-! ### The CUE record (R28, R40) -/

theorem words_eq (l : List Byte) (off count : Nat) :
    words l off count = (List.range count).map (fun i => field l (off + 2 * i) 2) := by
  induction count generalizing off with
  | zero => rfl
  | succ count ih =>
    rw [List.range_succ_eq_map, List.map_cons, List.map_map]
    unfold words
    rw [ih]
    refine congrArg₂ List.cons rfl (List.map_congr_left fun i _ => ?_)
    simp only [Function.comp]
    congr 1
    omega

/-- Settles O39: the reader's fields and its refusals, and the resolution of a tilt for a station. -/
theorem cueRecordFields : Obligations.CueRecordFields := by
  refine ⟨?_, ?_⟩
  · intro p count tags flags ringAt hasRing form tiltAt values implied malformed
    have hflags : (byteAt p (3 + 2 * count)).toNat = flags := (field_one _ _).symm
    have hbit : (byteAt p (3 + 2 * count)).getLsbD 0 = decide hasRing := by
      rw [BitVec.getLsbD, hflags, Nat.testBit_zero]
    have hany : (tags.any fun t => t == 0 || decide (4095 ≤ t)) = true ↔ ∃ x ∈ tags, x = 0 ∨ 4095 ≤ x := by simp
    have hread : readCue p = if malformed then none else some
        { id := BitVec.ofNat 16 (field p 0 2), roster := tags
          ring := if hasRing then some (signedOf 24 (field p ringAt 3), field p (ringAt + 3) 2) else none
          tilt :=
            if form = 1 then .uniform (field p tiltAt 2) (field p (tiltAt + 2) 2)
            else if form = 2 then
              .list ((List.range values).map (fun i => field p (tiltAt + 1 + 2 * i) 2))
                (field p (tiltAt + 1 + 2 * values) 2)
            else .none } := by
      have hring : ringAt = 3 + 2 * count + 1 := by omega
      unfold readCue
      simp only [words_eq]
      rw [hflags, hbit, ← hring]
      simp only [decide_eq_true_eq]
      refine ite_congr (propext ?_) (fun _ => rfl) (fun _ => rfl)
      have himplied : 4 + 2 * count + (if hasRing then 5 else 0)
          + (if form = 1 then 4 else if form = 2 then 3 + 2 * values else 0) = implied := by
        show _ = (if hasRing then ringAt + 5 else ringAt) + _
        by_cases hr : hasRing
        · rw [if_pos hr, if_pos hr]
        · rw [if_neg hr, if_neg hr, Nat.add_zero]
      refine or_congr Iff.rfl (or_congr Nat.lt_one_iff.symm (or_congr Iff.rfl (or_congr hany (or_congr Iff.rfl (or_congr Iff.rfl
        (or_congr (and_congr_left fun _ => decide_eq_false_iff_not)
          (or_congr (and_congr_right fun _ => or_congr Nat.lt_one_iff.symm Iff.rfl) ?_)))))))
      rw [← himplied]
    exact ⟨fun h => hread.trans (if_pos h), fun h => hread.trans (if_neg h)⟩
  · intro r station
    refine ⟨fun h => ?_, fun value speed h => ?_, fun list speed h => ?_⟩
    · unfold tiltTargetFor tiltValues
      rw [h]
      exact ⟨rfl, rfl⟩
    · unfold tiltTargetFor tiltValues tiltSpeedOf
      rw [h]
      exact ⟨rfl, rfl, rfl⟩
    · unfold tiltTargetFor tiltValues tiltSpeedOf
      rw [h]
      exact ⟨fun hin => if_pos hin, fun hout => (if_neg (by omega)).trans List.getLast?_eq_getElem?, rfl, rfl⟩

/-! ### The CUE judged (R66 to R71) -/

namespace Node

theorem movesTilt_iff (r : CueRecord) : movesTilt r = true ↔ r.tilt ≠ .none := by
  unfold movesTilt
  cases r.tilt <;> simp

theorem outOfRange_iff (n : Node) (r : CueRecord) : n.outOfRange r = true ↔
    (∃ t u, r.ring = some (t, u) ∧ (t < Live.ringMin n.live ∨ Live.ringMax n.live < t))
      ∨ ∃ v ∈ tiltValues r, Live.tiltMax n.live < v := by
  unfold outOfRange
  rw [Bool.or_eq_true, List.any_eq_true]
  refine or_congr ?_ (by simp)
  cases hr : r.ring with
  | none => simp
  | some p => obtain ⟨t, u⟩ := p; simp

theorem badShape_iff (n : Node) (r : CueRecord) : n.badShape r = true ↔
    ∃ a ∈ n.peers.map.fitted, ∃ b ∈ n.peers.map.fitted, n.peers.map.adjacent a b = true
      ∧ ∃ x y, tiltTargetFor r a = some x ∧ tiltTargetFor r b = some y ∧ y + Live.window n.live .tilt < x := by
  unfold badShape
  simp only [List.any_eq_true, Bool.and_eq_true]
  refine exists_congr fun a => and_congr_right fun _ => exists_congr fun b => and_congr_right fun _ => and_congr_right fun _ => ?_
  cases tiltTargetFor r a <;> cases tiltTargetFor r b <;> simp

theorem holdsCue_iff (n : Node) (id : CueId) : n.holdsCue id = true ↔
    (∃ x ∈ n.cue.queue, x.id = id) ∨ ∃ x ∈ n.cue.retired, x.id = id := by
  simp [holdsCue]

/-- The outcome of the checks on a CUE that is no duplicate (R66, R70, R71). -/
def cueOutcome (x : Option CueReason) (r : CueRecord) (n : Node) : Node :=
  match x with
  | some why => setRefusal r.id why { n with counters := { n.counters with cuesRefused := n.counters.cuesRefused.bump } }
  | none =>
    { n with
      cue := { n.cue with queue := n.cue.queue ++ [n.entryOf r] }
      counters := { n.counters with cuesAccepted := n.counters.cuesAccepted.bump } }

theorem judgeCue_new {n : Node} {r : CueRecord} (h : n.holdsCue r.id = false) :
    judgeCue r n = cueOutcome (n.refusalOf r) r n := by
  unfold judgeCue
  rw [h]
  rfl

/-- The refusal record written anew is a status event (R71). -/
theorem setRefusal_new {n : Node} {id : CueId} {why : CueReason} (h : n.cue.refusal ≠ { id, reason := why })
    (hp : n.cue.phase ≠ .starting) : setRefusal id why n =
      { n with cue := { n.cue with refusal := { id, reason := why } }, statusEvent := true } := by
  unfold setRefusal note
  rw [if_neg h, if_neg hp]

end Node

/-- Settles O40: the frame processor's two discards, then the Cue Controller's checks in their order. -/
theorem cueJudged : Obligations.CueJudged := by
  intro f rest s hs hq hkind hfate live fated n c
  have ⟨hlisten, hevent, hcalm⟩ := hs
  have heff : applyCue s.node = match readCue (framePayload f) with
      | none => setFate .filtered s.node
      | some r => if s.node.cueDiscarded f then setFate .filtered s.node else setFate .accepted (judgeCue r s.node) :=
    withHead_of_head hq hkind hfate
  have hdiscard (r : CueRecord) (hr : readCue (f.drop 8) = some r) : s.node.cueDiscarded f = true ↔
      s.node.inService = true ∧ s.node.groupTag ∉ r.roster := by
    unfold cueDiscarded framePayload
    rw [hr]
    simp
  refine ⟨fun hout => ?_, ?_⟩
  · refine takeStep_calm hlisten (heff.trans ?_) (m := fated .filtered) hcalm hevent
    rcases hout with hnone | ⟨r, hr, hd⟩
    · rw [show readCue (framePayload f) = none from hnone]; rfl
    · rw [show readCue (framePayload f) = some r from hr]
      exact if_pos ((hdiscard r hr).2 hd)
  intro r hr hin held state full range tilts shape stowed refused refuses speed entry accepted
  have hjudge : applyCue s.node = setFate .accepted (judgeCue r s.node) := by
    rw [heff, show readCue (framePayload f) = some r from hr]
    refine if_neg fun hd => ?_
    obtain ⟨hserv, hno⟩ := (hdiscard r hr).1 hd
    rcases hin with h | h
    · exact absurd (hserv.symm.trans h) (by decide)
    · exact hno h
  have hheld : s.node.holdsCue r.id = true ↔ held := holdsCue_iff _ _
  have hrange : s.node.outOfRange r = true ↔ range := outOfRange_iff _ _
  have hshape : (movesTilt r && s.node.badShape r) = true ↔ shape := by
    rw [Bool.and_eq_true, movesTilt_iff, badShape_iff]
    rfl
  have hstowed : (movesTilt r && !s.node.seatsStowed) = true ↔ stowed := by
    rw [Bool.and_eq_true, movesTilt_iff, Bool.not_eq_true']
    rfl
  have judged {x : Option CueReason} (hno : ¬held) (hx : s.node.refusalOf r = x) : judgeCue r s.node = cueOutcome x r s.node := by
    rw [judgeCue_new (Bool.eq_false_iff.2 (mt hheld.1 hno)), hx]
  have refuse (why : CueReason) (hno : ¬held) (hx : s.node.refusalOf r = some why) : refuses why := by
    refine ⟨fun hsame => ?_, fun hnew hphase hset => ?_⟩
    · refine takeStep_calm hlisten (hjudge.trans ?_) hcalm hevent
      rw [judged hno hx]
      dsimp only [cueOutcome]
      unfold setRefusal
      rw [if_pos (by exact hsame)]
      simp only [refused, ← hsame]
      rfl
    · refine takeStep_event hlisten (hjudge.trans ?_) hset
      rw [judged hno hx]
      dsimp only [cueOutcome]
      rw [setRefusal_new (by exact hnew) (by exact hphase)]
      rfl
  refine ⟨fun h => ?_, fun hno h => refuse _ hno ?_, fun hno h1 h => refuse _ hno ?_, fun hno h1 h2 h => refuse _ hno ?_,
    fun hno h1 h2 h3 h => refuse _ hno ?_, fun hno h1 h2 h3 h4 h => refuse _ hno ?_, fun hno h1 h2 h3 h4 h5 hc => ?_⟩
  · refine takeStep_calm hlisten (hjudge.trans ?_) hcalm hevent
    unfold judgeCue
    dsimp only
    rw [if_pos (hheld.2 h)]
    rfl
  · exact if_pos h
  · exact (if_neg h1).trans (if_pos h)
  · exact (if_neg h1).trans ((if_neg h2).trans (if_pos (hrange.2 h)))
  · exact (if_neg h1).trans ((if_neg h2).trans ((if_neg (mt hrange.1 h3)).trans (if_pos (hshape.2 h))))
  · exact (if_neg h1).trans ((if_neg h2).trans ((if_neg (mt hrange.1 h3)).trans ((if_neg (mt hshape.1 h4)).trans
      (if_pos (hstowed.2 h)))))
  · have hx : s.node.refusalOf r = none := (if_neg h1).trans ((if_neg h2).trans ((if_neg (mt hrange.1 h3)).trans
      ((if_neg (mt hshape.1 h4)).trans (if_neg (mt hstowed.1 h5)))))
    refine takeStep_calm hlisten (hjudge.trans ?_) hc hevent
    rw [judged hno hx]
    rfl

end Sys2Proof.Machine
end

section
/-! The changes of phase that follow of themselves (R72 to R83, R114, R115, R122), and the arm timer's end (R73). -/

namespace Sys2Proof.Machine

namespace Node

/-- One consequence that is a status event alone ends the step. -/
theorem finish_of_next {n m : Node} {c : Consequence} (hc : n.nextConsequence false = some c)
    (ha : applyConsequence c n = { m with statusEvent := true }) (h : m.Settles) : finish false n = m.announced := by
  refine finish_of_settled ?_ h
  rw [settled_next hc, ha]
  exact settled_of_none h.2.1

/-- With brakes and hold causes in step the phase's consequence comes next. -/
theorem nextConsequence_phase {n : Node} (hb : n.BrakesFollow) (hh : n.wantedHolds = n.cue.holds) (tick : Bool) :
    n.nextConsequence tick = n.phaseConsequence tick := by
  rw [nextConsequence_of_brakes hb, hh]
  simp

/-- Outside the phases of motion and HALTED every brake is commanded applied (R147). -/
theorem brakeCommand_still {n : Node} (hm : n.cue.phase.inMotion = false) (hh : n.cue.phase ≠ .halted) (a : Axis) :
    n.brakeCommand a = false := by
  unfold brakeCommand
  simp [hm, hh]

theorem currentCue_cons {n : Node} {c : Cue} {rest : List Cue} (h : n.cue.queue = c :: rest) : n.currentCue = c.id := by
  unfold currentCue headCue
  rw [h]
  rfl

theorem headCue_cons {n : Node} {c : Cue} {rest : List Cue} (h : n.cue.queue = c :: rest) : n.headCue = some c := by
  unfold headCue
  rw [h]
  rfl

/-- The head leaves the queue (R64, R65). -/
theorem retireHead_eq {n : Node} {c : Cue} {rest : List Cue} (h : n.cue.queue = c :: rest) (how : CueEnd) :
    retireHead how n = pushRetired c.id how { n with cue := { n.cue with queue := rest } } := by
  unfold retireHead
  rw [h]

/-- The refusal record as a step leaves it, whether it is written anew or stands so already (R71). -/
theorem setRefusal_eq (id : CueId) (r : CueReason) (n : Node) : ∃ b, setRefusal id r n =
    { n with cue := { n.cue with refusal := { id, reason := r } }, statusEvent := b } := by
  unfold setRefusal
  split
  next h => exact ⟨n.statusEvent, by rw [← h]⟩
  next h =>
    unfold note
    split
    · exact ⟨n.statusEvent, rfl⟩
    · exact ⟨true, rfl⟩

/-- A head that fails outside IDLE takes the wagon there (R73, R74). -/
theorem failHead_eq {n : Node} {c : Cue} {rest : List Cue} (h : n.cue.queue = c :: rest) (r : CueReason)
    (hp : n.cue.phase ≠ .idle) : failHead r n = { n with
      cue := { n.cue with
        phase := .idle, queue := rest
        retired := (n.cue.retired ++ [Retired.mk c.id .failed]).drop ((n.cue.retired ++ [Retired.mk c.id .failed]).length - 4)
        refusal := { id := c.id, reason := r }, armRunning := false, ringRelease := none, tiltRelease := none }
      counters := { n.counters with retiredFailed := n.counters.retiredFailed.bump }
      statusEvent := true } := by
  obtain ⟨b, hb⟩ := setRefusal_eq c.id r (retireHead .failed n)
  unfold failHead
  dsimp only
  rw [currentCue_cons h, hb, retireHead_eq h]
  exact if_neg hp

end Node

open Node

/-- Settles O41: the arming of the head, its failure with CONFIG, and its failure with TIMEOUT. -/
theorem headArmsFailsOrTimesOut : Obligations.HeadArmsFailsOrTimesOut := by
  refine ⟨?_, ?_⟩
  · intro c rest n hphase hq hfaults hevent hfresh hdue hbrakes hholds agree armed retired failed
    have hfollow : n.BrakesFollow := fun a => by
      rw [hbrakes a, brakeCommand_still (by rw [hphase]; rfl) (by rw [hphase]; decide)]
    have hnext : n.nextConsequence false = some .arming := by
      rw [nextConsequence_phase hfollow hholds.symm]
      unfold phaseConsequence
      rw [hphase]
      exact if_pos (by rw [headCue_cons hq, hfaults, (allFresh_iff n).2 hfresh]; rfl)
    have hagree : n.digestAgree = true ↔ agree := by
      unfold digestAgree
      rw [List.all_eq_true]
      refine forall₂_congr fun e he => ?_
      simp [hfresh e he]
    refine ⟨fun h hset => finish_of_next hnext ?_ hset, fun h hnew hset => finish_of_next hnext ?_ hset⟩
    · have harm : enterArmed n = { armed with statusEvent := true } := by
        have hstart : (setPhase .armed n).startValue .arm (Live.armTicks (setPhase .armed n).live) = Live.armTicks n.cfg.live := by
          unfold startValue
          rw [if_neg (by simpa using hdue)]
          unfold live
          rw [setPhase_cfg]
        unfold enterArmed
        dsimp only
        rw [hstart, dropDue_of_not_mem (by simpa using hdue)]
        rfl
      exact (if_pos (hagree.2 h)).trans harm
    · have hfail : failHead .config n = { failed with statusEvent := true } := by
        have hstarted : ¬n.cue.phase = .starting := by rw [hphase]; decide
        unfold failHead
        dsimp only
        rw [currentCue_cons hq, retireHead_eq hq, setRefusal_new (by exact hnew) (by exact hstarted)]
        exact if_pos hphase
      exact (if_neg (mt hagree.1 h)).trans hfail
  · intro c rest s ⟨hlisten, hevent, hcalm⟩ hdue hphase hq retired n hset
    refine takeStep_event hlisten ?_ hset
    show takeDue .arm s.node = _
    rw [takeDue_of_mem hdue, dropDue_eq]
    refine (if_pos hphase).trans (failHead_eq (by exact hq) .timeout ?_)
    show ¬s.node.cue.phase = .idle
    rw [hphase]
    decide

/-! ### The stop completed (R83) -/

namespace Node

/-- The stop is complete and nothing can arm the next head; what the step is to leave as it was in `a` is so. -/
structure StopComplete (a : Node) (c : Cue) (rest : List Cue) (n : Node) : Prop where
  phase : n.cue.phase = .idle
  queue : n.cue.queue = rest
  retired : n.cue.retired = pushed a.cue.retired c.id .cancelled
  counted : n.counters.retiredCancelled = a.counters.retiredCancelled.bump
  ringRelease : n.cue.ringRelease = none
  tiltRelease : n.cue.tiltRelease = none
  lastDone : n.cue.lastDone = a.cue.lastDone
  refusal : n.cue.refusal = a.cue.refusal
  permit : n.cue.permit = a.cue.permit
  faults : n.faults = a.faults
  ring : n.ring = a.ring
  tilt : n.tilt = a.tilt
  mode : n.ringMode = a.ringMode
  rx : n.rx = a.rx
  station : n.station = a.station
  barred : rest = [] ∨ a.faults ≠ 0 ∨ ∃ e ∈ n.peers.entries, e.station ≠ a.station ∧ e.freshness ≠ .fresh

/-- A build counts status overruns alone. -/
theorem fillStatus_retiredCancelled (f : List Byte) (n : Node) :
    (fillStatus f n).counters.retiredCancelled = n.counters.retiredCancelled := by
  unfold fillStatus
  dsimp only
  split <;> rfl

/-- A build judges no tow outside a ring-moving phase of motion (R139). -/
theorem build_of_rest {n : Node} (h : (n.cue.phase.inMotion && n.headMoves .ring) = false) : build n = n.built := by
  have hcue : n.built.cue = n.cue := by simp [built]
  have hmoves : n.built.headMoves .ring = n.headMoves .ring := by unfold headMoves headMove headCue; rw [hcue]
  rw [build_eq]
  unfold superviseTow
  rw [hcue, hmoves, h]
  exact ite_self _

end Node

namespace Node

/-- With no next head, a fault latched, or a peer not FRESH, no head is armed (R72). -/
theorem StopComplete.no_arming {a n : Node} {c : Cue} {rest : List Cue} (h : StopComplete a c rest n)
    (tick : Bool) : n.phaseConsequence tick = none := by
  cases hc : n.phaseConsequence tick with
  | none => rfl
  | some k =>
    exfalso
    rcases phaseConsequence_cases hc with ⟨-, -, hq, hf, hfresh⟩ | ⟨-, hp, -⟩ | ⟨-, hp, -⟩ | ⟨-, hp, -⟩ | ⟨-, hp, -⟩
      | ⟨-, hp, -⟩ | ⟨-, hp, -⟩ | ⟨-, hp, -⟩ | ⟨-, hp⟩
    · rcases h.barred with hb | hb | ⟨e, he, -, hb⟩
      · exact hq (h.queue.trans hb)
      · exact hb (h.faults.symm.trans hf)
      · exact hb ((allFresh_iff n).1 hfresh e he)
    all_goals exact absurd (h.phase.symm.trans hp) (by decide)

/-- The completed stop stays so to the end of the step. -/
theorem stopComplete_finish {a n : Node} {c : Cue} {rest : List Cue} (h : StopComplete a c rest n) :
    StopComplete a c rest (finish false n) := by
  refine finish_induct_of (P := StopComplete a c rest) ?_ ?_ ?_ ?_ n h
  · intro k m hc hm
    rcases nextConsequence_cases hc with ⟨b, rfl⟩ | rfl | ⟨-, hp⟩
    · obtain ⟨r, t, e, hr, ht⟩ := changeBrake_cue b m
      show StopComplete a c rest (changeBrake b m)
      refine ⟨by rw [e]; exact hm.phase, by rw [e]; exact hm.queue, by rw [e]; exact hm.retired, ?_,
        by rw [e]; exact hr hm.ringRelease, by rw [e]; exact ht hm.tiltRelease, by rw [e]; exact hm.lastDone,
        by rw [e]; exact hm.refusal, by rw [e]; exact hm.permit, ?_, ?_, ?_, ?_, ?_, ?_, ?_⟩
      · rw [changeBrake_counters]; exact hm.counted
      · rw [changeBrake_faults]; exact hm.faults
      · rw [changeBrake_ring]; exact hm.ring
      · rw [changeBrake_tilt]; exact hm.tilt
      · rw [changeBrake_ringMode]; exact hm.mode
      · rw [changeBrake_rx]; exact hm.rx
      · unfold station; rw [changeBrake_cfg]; exact hm.station
      · rw [changeBrake_peers]; exact hm.barred
    · obtain ⟨b, e⟩ := setHolds_eq m.wantedHolds m
      show StopComplete a c rest (setHolds _ m)
      rw [e]
      exact ⟨hm.phase, hm.queue, hm.retired, hm.counted, hm.ringRelease, hm.tiltRelease, hm.lastDone, hm.refusal, hm.permit,
        hm.faults, hm.ring, hm.tilt, hm.mode, hm.rx, hm.station, hm.barred⟩
    · rw [hm.no_arming] at hp
      cases hp
  · intro m hm
    have hcue : m.built.cue = m.cue := by simp [built]
    rw [build_of_rest (by rw [hm.phase]; rfl)]
    refine ⟨by rw [hcue]; exact hm.phase, by rw [hcue]; exact hm.queue, by rw [hcue]; exact hm.retired,
      (fillStatus_retiredCancelled _ _).trans hm.counted, by rw [hcue]; exact hm.ringRelease,
      by rw [hcue]; exact hm.tiltRelease, by rw [hcue]; exact hm.lastDone, by rw [hcue]; exact hm.refusal,
      by rw [hcue]; exact hm.permit, by simpa [built] using hm.faults, by simpa [built] using hm.ring,
      by simpa [built] using hm.tilt, by simpa [built] using hm.mode, by simpa [built] using hm.rx,
      by simpa [built, station] using hm.station, ?_⟩
    refine hm.barred.imp_right (.imp_right fun ⟨e, he, hown, hb⟩ => ⟨e, ?_, hown, hb⟩)
    refine List.mem_map.2 ⟨e, he, if_neg ?_⟩
    rw [hm.station]
    simpa using hown
  · intro m b hm
    exact ⟨hm.phase, hm.queue, hm.retired, hm.counted, hm.ringRelease, hm.tiltRelease, hm.lastDone, hm.refusal, hm.permit,
      hm.faults, hm.ring, hm.tilt, hm.mode, hm.rx, hm.station, hm.barred⟩
  · intro m b hm
    exact ⟨hm.phase, hm.queue, hm.retired, hm.counted, hm.ringRelease, hm.tiltRelease, hm.lastDone, hm.refusal, hm.permit,
      hm.faults, hm.ring, hm.tilt, hm.mode, hm.rx, hm.station, hm.barred⟩

/-- A step goes on from its next consequence. -/
theorem finish_next {n : Node} {c : Consequence} (h : n.nextConsequence false = some c) :
    finish false n = finish false (applyConsequence c n) := by
  unfold finish
  rw [settled_next h]

/-- SETTLING is entered with the settle count, and the moved axes' velocity memories, 0 (R77, R100). -/
theorem enterSettling_eq (n : Node) : enterSettling n = { n with
    cue := { n.cue with phase := .settling, armRunning := false, settleCount := 0 }
    ring := { n.ring with velocity := if n.headMoves .ring then 0 else n.ring.velocity }
    tilt := { n.tilt with velocity := if n.headMoves .tilt then 0 else n.tilt.velocity }
    due := n.due.filter (fun d => decide (d ≠ .settle))
    statusEvent := true } := by
  have hset : setPhase .settling n = { n with
      cue := { n.cue with phase := .settling, armRunning := false }, statusEvent := true } := rfl
  have hrest (m : Node) (hr : m.headMove .ring = n.headMove .ring) (ht : m.headMove .tilt = n.headMove .tilt) :
      restAxis .tilt (restAxis .ring m) = { m with
        ring := { m.ring with velocity := if n.headMoves .ring then 0 else m.ring.velocity }
        tilt := { m.tilt with velocity := if n.headMoves .tilt then 0 else m.tilt.velocity } } := by
    have h1 : restAxis .ring m = { m with
        ring := { m.ring with velocity := if n.headMoves .ring then 0 else m.ring.velocity } } := by
      unfold restAxis headMoves
      rw [hr]
      split <;> rfl
    have h2 (k : Node) (hk : k.headMove .tilt = n.headMove .tilt) : restAxis .tilt k = { k with
        tilt := { k.tilt with velocity := if n.headMoves .tilt then 0 else k.tilt.velocity } } := by
      unfold restAxis headMoves
      rw [hk]
      split <;> rfl
    rw [h1, h2 _ (by exact ht)]
  unfold enterSettling
  rw [hset]
  dsimp only
  rw [dropDue_eq]
  refine (hrest _ ?_ ?_).trans ?_ <;> rfl

end Node

/-- Settles O44, phase by phase: what comes next, and what it writes. -/
theorem phaseChangesFollow : Obligations.PhaseChangesFollow := by
  intro n hevent hholds hbrakes into follows retired atTarget carried rested settling
  have hfollow : n.BrakesFollow := fun a => (hbrakes a).symm
  have hnext (tick : Bool) : n.nextConsequence tick = n.phaseConsequence tick := nextConsequence_phase hfollow hholds.symm tick
  have change {c : Consequence} {m : Node} (hc : n.phaseConsequence false = some c)
      (ha : applyConsequence c n = { m with statusEvent := true }) : follows m :=
    fun hset => finish_of_next ((hnext false).trans hc) ha hset
  have arrives (tick : Bool) (hp : n.cue.phase = .moving) (hh : n.cue.holds = 0)
      (h : ∀ a, n.axisArrived tick a = true) : n.phaseConsequence tick = some .arrival := by
    unfold phaseConsequence
    rw [hp]
    simp [hh, h]
  have hsettling (hp : n.cue.phase = .moving) : applyConsequence .arrival n = { settling with statusEvent := true } :=
    enterSettling_eq _
  refine ⟨fun hp hh => ?hold, fun hp hh hat => ?arrive, fun hp hh hat hquiet => ?arriveTick, fun hp hh hpermit hfresh => ?resume,
    fun hp hr hv1 hv2 => ?rampEnd, fun c rest hq => ⟨fun hp hex => ?refused, fun hp hall => ?done, fun hp hrest hbar => ?stop⟩⟩
  case hold =>
    refine change (c := .hold) ?_ rfl
    unfold phaseConsequence
    rw [hp]
    exact if_pos (by simpa using hh)
  case arrive =>
    exact change (arrives false hp hh fun a => axisArrived_of_atTarget false (hat a)) (hsettling hp)
  case arriveTick =>
    have harrived (a : Axis) : n.axisArrived true a = true := by
      cases hm : n.headMove a with
      | none => unfold axisArrived headMoves; rw [hm]; rfl
      | some m =>
        rcases hat a m hm with h | ⟨hrel, rfl, htowed, hin⟩
        · exact axisArrived_of_atTarget true fun _ _ => h
        · unfold axisArrived live
          simp [hrel, htowed, hin]
    rw [settled_next ((hnext true).trans (arrives true hp hh harrived)), hsettling hp]
    exact settled_of_none hquiet
  case resume =>
    refine change (c := .resume) ?_ rfl
    unfold phaseConsequence
    rw [hp]
    exact if_pos (by rw [hh, (allFresh_iff n).2 hfresh, Option.isSome_iff_ne_none.2 hpermit]; rfl)
  case rampEnd =>
    refine change (c := .rampEnd) ?_ ?_
    · unfold phaseConsequence
      rw [hp]
      exact if_pos (by rw [hr, hv1, hv2]; rfl)
    · exact if_neg (by show ¬n.cue.phase = .starting; rw [hp]; decide)
  case refused =>
    refine change (c := .refusal) ?_ (failHead_eq hq .peerRefused (by rw [hp]; decide))
    obtain ⟨e, he, hown, hfresh, hid⟩ := hex
    unfold phaseConsequence
    rw [hp]
    refine if_pos ?_
    rw [currentCue_cons hq]
    unfold refusedByPeer
    rw [List.any_eq_true]
    exact ⟨e, he, by simp [hown, hfresh, hid]⟩
  case done =>
    refine change (c := .retirement) ?_ ?_
    · unfold phaseConsequence
      rw [hp]
      refine if_pos ?_
      rw [currentCue_cons hq]
      unfold allDone
      rw [List.all_eq_true]
      intro e he
      simpa [or_assoc, and_assoc] using hall e he
    · show retireDone n = _
      unfold retireDone
      rw [currentCue_cons hq, retireHead_eq hq]
      rfl
  case stop =>
    intro b
    have hnextStop : n.nextConsequence false = some .stop := by
      have hat : n.headAtRest = true := by
        have hv (a : Axis) : (!n.headMoves a || (n.planner a).velocity == 0) = true := by
          unfold headMoves
          cases hm : n.headMove a with
          | none => rfl
          | some m => simpa using hrest a m hm
        unfold headAtRest
        rw [Bool.and_eq_true]
        exact ⟨hv .ring, hv .tilt⟩
      rw [hnext]
      unfold phaseConsequence
      rw [hp]
      exact if_pos hat
    set m := applyConsequence .stop n with hm
    have heff : m = { n with
        cue := { n.cue with phase := .idle, armRunning := false, ringRelease := none, tiltRelease := none
                            queue := rest, retired := retired c.id .cancelled }
        counters := { n.counters with retiredCancelled := n.counters.retiredCancelled.bump }
        statusEvent := true } := by
      show setPhase .idle (retireHead .cancelled n) = _
      rw [retireHead_eq hq]
      rfl
    have hstop : StopComplete n c rest m := by
      rw [heff]
      exact ⟨rfl, rfl, rfl, rfl, rfl, rfl, rfl, rfl, rfl, rfl, rfl, rfl, rfl, rfl, rfl,
        hbar.imp_right (.imp_right fun ⟨e, he, hown, hf⟩ => ⟨e, he, hown, hf⟩)⟩
    have hb : b = finish false m := finish_next hnextStop
    rw [hb]
    have h := stopComplete_finish hstop
    refine ⟨h.phase, h.queue, h.retired, h.counted, h.ringRelease, h.tiltRelease, h.lastDone, h.refusal, h.permit, h.faults,
      fun a => ⟨released_of_still (finish_done false m) (by rw [h.phase]; rfl) (by rw [h.phase]; decide) a, ?_⟩, h.mode, h.rx,
      statusFollows_finish (by rw [heff]) (by rw [heff])⟩
    cases a
    · exact h.ring
    · exact h.tilt

end Sys2Proof.Machine
end

section
/-! The start of a move (R75, R76, R85, R91, R139, R147, R148): MOVING is entered, the brakes of the axes it moves are released,
and the STATUS follows. -/

namespace Sys2Proof.Machine

namespace Node

/-! ### The entry to MOVING -/

/-- What the entry leaves an axis's release at (R76). -/
def startedRelease (n : Node) (a : Axis) : Option Release := (n.headMove a).elim (n.release a) fun _ => some .releasing

theorem startAxis_eq (a : Axis) (n : Node) :
    startAxis a n = (n.setPlanner a (n.startedPlanner a)).setRelease a (n.startedRelease a) := by
  unfold startAxis startedPlanner startedRelease
  cases n.headMove a with
  | none => cases a <;> rfl
  | some m => rfl

/-- MOVING as it is entered, before the towed set is judged. -/
theorem started_eq {n : Node} {c : Cue} {rest : List Cue} (hq : n.cue.queue = c :: rest) : n.started = { n with
    ring := n.startedPlanner .ring, tilt := n.startedPlanner .tilt
    cue := { n.cue with
      phase := .moving, armRunning := false, queue := { c with interrupted := false } :: rest
      ringRelease := n.startedRelease .ring, tiltRelease := n.startedRelease .tilt }
    statusEvent := true } := by
  have hmark : markHead false n = { n with cue := { n.cue with queue := { c with interrupted := false } :: rest } } := by
    unfold markHead
    rw [hq]
  have hmove (a : Axis) : (markHead false n).headMove a = n.headMove a := markHead_headMove false n a
  rw [hmark] at hmove
  unfold started
  rw [hmark, startAxis_eq .ring, startAxis_eq .tilt]
  unfold startedPlanner startedRelease
  simp only [hmove]
  have htilt (p : Planner) (r : Option Release) : ((setPlanner { n with
      cue := { n.cue with queue := { c with interrupted := false } :: rest } } .ring p).setRelease .ring r).headMove .tilt
      = n.headMove .tilt := hmove .tilt
  simp only [htilt]
  rfl

/-! ### The brakes of a move -/

/-- The drive side of an axis whose brake is released (R147, R148). -/
def releasedDrive (n : Node) (a : Axis) : AxisDrive :=
  if (n.axisDrive a).supervision = .unsupervised then { n.axisDrive a with released := true }
  else if n.brakeLifted a then { n.axisDrive a with released := true, supervision := .agreed }
  else { n.axisDrive a with released := true, supervision := .changing, brakeTimer := Live.brakeTicks n.cfg.live }

/-- The release state once the brake has been commanded (R76, R149). -/
def releasedState (n : Node) (a : Axis) : Option Release :=
  if (n.axisDrive a).supervision ≠ .unsupervised ∧ n.brakeLifted a = true then some .released else some .releasing

/-- A RELEASING axis's brake is released. -/
theorem changeBrake_release {n : Node} {a : Axis} (happlied : (n.axisDrive a).released = false) (hdue : .brake a ∉ n.due)
    (hwait : n.release a = some .releasing) :
    changeBrake a n = (n.setAxisDrive a (n.releasedDrive a)).setRelease a (n.releasedState a) := by
  have hsame (d : AxisDrive) : n.setAxisDrive a d = (n.setAxisDrive a d).setRelease a (some .releasing) := by
    cases a <;> (rw [← hwait]; rfl)
  unfold changeBrake releasedDrive releasedState
  dsimp only
  rw [happlied]
  by_cases hsup : (n.axisDrive a).supervision = .unsupervised
  · rw [if_pos hsup, if_pos hsup, if_neg (fun h => h.1 hsup)]
    exact hsame _
  rw [if_neg hsup, if_neg hsup]
  have hagrees : (n.setAxisDrive a { n.axisDrive a with released := !false }).brakeAgrees a = n.brakeLifted a := by
    unfold brakeAgrees
    have hout : ((n.setAxisDrive a { n.axisDrive a with released := !false }).axisDrive a).released = true := by cases a <;> rfl
    have hlift : (n.setAxisDrive a { n.axisDrive a with released := !false }).brakeLifted a = n.brakeLifted a := by cases a <;> rfl
    rw [hout, hlift, beq_true]
  rw [hagrees]
  cases hl : n.brakeLifted a with
  | true =>
    rw [if_pos rfl, if_pos rfl, if_pos ⟨hsup, rfl⟩]
    unfold brakeAgreed reportReleased
    cases a <;> exact (if_pos rfl).trans (if_pos hwait)
  | false =>
    rw [if_neg (by decide), if_neg (by decide), if_neg (by simp)]
    have hstart : (n.setAxisDrive a { n.axisDrive a with released := !false }).startValue (.brake a)
        (Live.brakeTicks (n.setAxisDrive a { n.axisDrive a with released := !false }).live) = Live.brakeTicks n.cfg.live := by
      cases a <;> exact if_neg (by simpa using hdue)
    rw [hstart, dropDue_of_not_mem (by cases a <;> exact hdue)]
    refine Eq.trans ?_ (hsame _)
    cases a <;> rfl

/-- In MOVING, with no fault, the brakes of the axes the head moves are commanded released (R147). -/
theorem brakeCommand_moving {n : Node} {a : Axis} (hp : n.cue.phase = .moving) (hf : n.faults = 0)
    (hr : n.headMoves a = true → (n.release a).isSome = true) : n.brakeCommand a = n.headMoves a := by
  have hestop : n.estopLatched = false := by unfold estopLatched; rw [hf]; decide
  unfold brakeCommand
  rw [hestop, hp]
  cases hm : n.headMoves a with
  | false => rfl
  | true => simp [hr hm, Phase.inMotion]

/-- The drive side of an axis as the entry to MOVING leaves it. -/
def startedDrive (n : Node) (a : Axis) : AxisDrive := if n.headMoves a then n.releasedDrive a else n.axisDrive a

/-- The release state of an axis once the brakes have been commanded. -/
def startedState (n : Node) (a : Axis) : Option Release := if n.headMoves a then n.releasedState a else n.release a

/-- The part with an axis's brake in step with a move under way. -/
def freed (a : Axis) (n : Node) : Node := (n.setAxisDrive a (n.startedDrive a)).setRelease a (n.startedState a)

theorem releasedDrive_released (n : Node) (a : Axis) : (n.releasedDrive a).released = true := by
  unfold releasedDrive
  split
  · rfl
  · split <;> rfl

theorem startedDrive_released {n : Node} {a : Axis} (happlied : (n.axisDrive a).released = false) :
    (n.startedDrive a).released = n.headMoves a := by
  unfold startedDrive
  cases n.headMoves a with
  | true => exact releasedDrive_released n a
  | false => exact happlied

theorem startedState_isSome {n : Node} {a : Axis} (h : n.headMoves a = true) : (n.startedState a).isSome = true := by
  unfold startedState releasedState
  rw [if_pos h]
  split <;> rfl

/-- A moving wagon releases the brake of an axis that the head moves (R147). -/
theorem settled_freed {n : Node} {a : Axis} (hp : n.cue.phase = .moving) (hf : n.faults = 0)
    (happlied : (n.axisDrive a).released = false) (hdue : .brake a ∉ n.due)
    (hwait : n.headMoves a = true → n.release a = some .releasing)
    (hfirst : a = .tilt → n.brakeCommand .ring = n.drive.ring.released) : settled false n = settled false (freed a n) := by
  unfold freed startedDrive startedState
  cases hm : n.headMoves a with
  | false =>
    have hsame : (n.setAxisDrive a (n.axisDrive a)).setRelease a (n.release a) = n := by cases a <;> rfl
    exact congrArg (settled false) hsame.symm
  | true =>
    rw [if_pos rfl, if_pos rfl, ← changeBrake_release happlied hdue (hwait hm)]
    have hcommand : n.brakeCommand a = true := by
      rw [brakeCommand_moving hp hf (fun h => by rw [hwait h]; rfl), hm]
    refine settled_next (c := .brake a) ?_
    unfold nextConsequence
    cases a with
    | ring => exact if_pos (by rw [hcommand, show n.drive.ring.released = false from happlied]; rfl)
    | tilt =>
      rw [hfirst rfl]
      exact (if_neg (by simp)).trans
        (if_pos (by rw [hcommand, show n.drive.tilt.released = false from happlied]; rfl))

/-! ### The start agreement -/

/-- The conditions of the hold causes do not change with what they do not read (R112). -/
theorem wantedHolds_of_reads {m n : Node} (permit : m.cue.permit = n.cue.permit) (served : m.inService = n.inService)
    (silent : m.peerSilent = n.peerSilent) (moves : m.headMoves .tilt = n.headMoves .tilt) (inputs : m.inputs = n.inputs)
    (monitor : m.monitor = n.monitor) (cfg : m.cfg = n.cfg) : m.wantedHolds = n.wantedHolds := by
  have hact (c : Fin 8) : m.channelAction c = n.channelAction c := by unfold channelAction live; rw [served, cfg]
  have htripped (x : Nat) : m.trippedWith x = n.trippedWith x := by
    unfold trippedWith liveRecord
    simp only [hact, monitor]
  unfold wantedHolds deckClear seatsStowed level
  rw [permit, served, silent, inputs, moves, htripped]

/-- With every entry FRESH none is silent (R46). -/
theorem peerSilent_of_fresh {n : Node} (h : ∀ e ∈ n.peers.entries, e.freshness = .fresh) : n.peerSilent = false := by
  unfold peerSilent
  rw [List.any_eq_false]
  intro e he
  rw [h e he]
  decide

/-- What the start of a move rests on (R55, R75): an armed wagon at rest, all agreed on its head. -/
structure Agreed (n : Node) (c : Cue) (rest : List Cue) : Prop where
  phase : n.cue.phase = .armed
  queue : n.cue.queue = c :: rest
  fresh : ∀ e ∈ n.peers.entries, e.freshness = .fresh
  armed : n.allArmed c.id = true
  unrefused : n.refusedByPeer c.id = false
  permit : n.cue.permit ≠ none
  holds : n.cue.holds = 0
  wanted : n.wantedHolds = 0
  faults : n.faults = 0
  applied : ∀ a, (n.axisDrive a).released = false ∧ .brake a ∉ n.due

/-- The move begins. -/
theorem Agreed.next {n : Node} {c : Cue} {rest : List Cue} (h : Agreed n c rest) :
    n.nextConsequence false = some .start := by
  have hfollow : n.BrakesFollow := fun a => by
    rw [(h.applied a).1, brakeCommand_still (by rw [h.phase]; rfl) (by rw [h.phase]; decide)]
  rw [nextConsequence_phase hfollow (h.wanted.trans h.holds.symm)]
  unfold phaseConsequence
  rw [h.phase, currentCue_cons h.queue]
  dsimp only
  rw [h.unrefused, h.armed, h.holds, Option.isSome_iff_ne_none.2 h.permit]
  rfl

/-- The part as the start of a move that nothing halts leaves it. -/
def moving (n : Node) (c : Cue) (rest : List Cue) : Node := { n with
  ring := n.startedPlanner .ring, tilt := n.startedPlanner .tilt
  drive := { n.drive with ring := n.startedDrive .ring, tilt := n.startedDrive .tilt }
  cue := { n.cue with
    phase := .moving, armRunning := false, queue := { c with interrupted := false } :: rest
    ringRelease := n.startedState .ring, tiltRelease := n.startedState .tilt } }

section
variable {n : Node} {c : Cue} {rest : List Cue}

theorem moving_headMove (hq : n.cue.queue = c :: rest) (a : Axis) : (n.moving c rest).headMove a = n.headMove a := by
  unfold headMove headCue
  rw [hq]
  cases a <;> rfl

theorem moving_headMoves (hq : n.cue.queue = c :: rest) (a : Axis) : (n.moving c rest).headMoves a = n.headMoves a := by
  unfold headMoves
  rw [moving_headMove hq]

/-- Both brakes of a started move follow (R147). -/
theorem settled_started (h : Agreed n c rest) :
    settled false n.started = settled false { n.moving c rest with statusEvent := true } := by
  have hmoves (a : Axis) : n.started.headMoves a = n.headMoves a := by
    unfold headMoves
    rw [started_headMove]
  have heq := started_eq h.queue
  have hwait (a : Axis) (hm : n.headMoves a = true) : n.started.release a = some .releasing := by
    have hr : n.started.release a = n.startedRelease a := by rw [heq]; cases a <;> rfl
    rw [hr]
    unfold startedRelease
    obtain ⟨m, hm⟩ := Option.isSome_iff_exists.1 hm
    rw [hm]
    rfl
  have hdrive (a : Axis) : n.started.axisDrive a = n.axisDrive a := by rw [heq]; cases a <;> rfl
  have hstartedDrive (a : Axis) : n.started.startedDrive a = n.startedDrive a := by
    unfold startedDrive
    rw [hmoves, hdrive]
    unfold releasedDrive
    rw [hdrive, heq]
    cases a <;> rfl
  have hstartedState (a : Axis) : n.started.startedState a = n.startedState a := by
    unfold startedState
    rw [hmoves]
    cases hm : n.headMoves a with
    | true =>
      unfold releasedState
      rw [hdrive, heq]
      cases a <;> rfl
    | false =>
      have hnone : n.headMove a = none := by simpa [headMoves] using hm
      have hr : n.started.release a = n.startedRelease a := by rw [heq]; cases a <;> rfl
      refine hr.trans ?_
      unfold startedRelease
      rw [hnone]
      rfl
  set b := n.started with hb
  have hring : settled false b = settled false (freed .ring b) :=
    settled_freed (by rw [heq]) (by rw [heq]; exact h.faults) (by rw [hdrive]; exact (h.applied _).1)
      (by rw [heq]; exact (h.applied _).2) (fun hm => hwait .ring (hmoves _ ▸ hm)) nofun
  have hcommand : (freed .ring b).brakeCommand .ring = (freed .ring b).drive.ring.released := by
    have hd : (freed .ring b).drive.ring.released = b.headMoves .ring :=
      startedDrive_released (by rw [hdrive]; exact (h.applied .ring).1)
    rw [hd]
    refine brakeCommand_moving (n := freed .ring b) (by show b.cue.phase = _; rw [heq])
      (by show b.faults = 0; rw [heq]; exact h.faults) fun hm => ?_
    exact startedState_isSome (n := b) hm
  have htilt : settled false (freed .ring b) = settled false (freed .tilt (freed .ring b)) :=
    settled_freed (by show b.cue.phase = _; rw [heq]) (by show b.faults = 0; rw [heq]; exact h.faults)
      (by show (b.axisDrive .tilt).released = false; rw [hdrive]; exact (h.applied _).1)
      (by show _ ∉ b.due; rw [heq]; exact (h.applied _).2)
      (fun hm => hwait .tilt (hmoves .tilt ▸ (show b.headMoves .tilt = true from hm))) (fun _ => hcommand)
  rw [hring, htilt]
  have hfields : freed .tilt (freed .ring b) = { b with
      drive := { b.drive with ring := b.startedDrive .ring, tilt := b.startedDrive .tilt }
      cue := { b.cue with ringRelease := b.startedState .ring, tiltRelease := b.startedState .tilt } } := rfl
  rw [hfields, hstartedDrive, hstartedDrive, hstartedState, hstartedState, heq]
  rfl

/-- Brakes and hold causes stand as the move needs them. -/
theorem moving_calm (h : Agreed n c rest) (hleft : ∃ a m, n.headMove a = some m ∧
      (m.target * 65536 ≠ (n.planner a).setpoint ∨ a = .ring ∧ n.ringMode = .towed)) : (n.moving c rest).Calm := by
  have hmove := moving_headMove (n := n) h.queue
  have hmoves := moving_headMoves (n := n) h.queue
  refine calm_of_brakes (fun a => ?_) ?_ ?_
  · rw [brakeCommand_moving (n := n.moving c rest) rfl h.faults (fun hm => ?_), hmoves]
    · cases a
      · exact startedDrive_released (h.applied .ring).1
      · exact startedDrive_released (h.applied .tilt).1
    · cases a
      · exact startedState_isSome (hmoves .ring ▸ hm)
      · exact startedState_isSome (hmoves .tilt ▸ hm)
  · have hserved : (n.moving c rest).inService = n.inService := by unfold inService; rw [h.phase]; rfl
    exact (wantedHolds_of_reads (m := n.moving c rest) (n := n) rfl hserved rfl (hmoves .tilt) rfl rfl rfl).trans (h.wanted.trans h.holds.symm)
  · obtain ⟨a, m, hm, hoff⟩ := hleft
    have harrived : axisArrived false a (n.moving c rest) = false := by
      have hmv : (n.moving c rest).headMoves a = true := by rw [hmoves]; unfold headMoves; rw [hm]; rfl
      rw [axisArrived_between, hmv]
      have hplan : (n.moving c rest).planner a = n.startedPlanner a := by cases a <;> rfl
      rw [hplan]
      unfold startedPlanner
      rw [hm]
      rcases hoff with hne | ⟨rfl, htowed⟩
      · have : ((n.planner a).setpoint == m.target * 65536) = false := by simpa using Ne.symm hne
        simp [this]
      · have : (n.moving c rest).ringMode = .towed := htowed
        simp [this]
    have hnot : (axisArrived false .ring (n.moving c rest) && axisArrived false .tilt (n.moving c rest)) = false := by
      cases a
      · rw [harrived, Bool.false_and]
      · rw [harrived, Bool.and_false]
    unfold phaseConsequence
    show (if (n.cue.holds != 0) = true then _ else _) = _
    rw [h.holds]
    exact (if_neg (by simp)).trans (if_neg (by rw [hnot]; decide))

/-- A build of a wagon whose own entry shows its ring mode already changes no towed set (R60, R139). -/
theorem built_towedSet {n : Node} (hown : ∀ e ∈ n.peers.entries, e.station = n.station →
      e.freshness = .fresh ∧ e.content.ringMode = n.ringMode) :
    n.built.towedSet = n.towedSet := by
  unfold towedSet
  show ((n.peers.entries.map _).filter _).map _ = _
  rw [List.filter_map, List.map_map]
  have hfilter : n.peers.entries.filter ((fun e : Entry => e.freshness != .absent && e.content.ringMode == .towed) ∘ fun x =>
        if x.station == n.station then
          { station := n.station, freshness := .fresh, age := 0, lastSeq := n.peers.ownSeq + 1, content := n.ownContent } else x)
      = n.peers.entries.filter (fun e => e.freshness != .absent && e.content.ringMode == .towed) := by
    refine List.filter_congr fun e he => ?_
    dsimp only [Function.comp]
    split
    next hs =>
      obtain ⟨hfresh, hmode⟩ := hown e he (by simpa using hs)
      rw [hfresh, hmode]
      rfl
    next => rfl
  rw [hfilter]
  refine List.map_congr_left fun e _ => ?_
  dsimp only [Function.comp]
  split
  next hs => exact (by simpa using hs : e.station = n.station).symm
  next => rfl

/-- A build leaves a calm part calm, where it leaves no entry silent that was not and brings no change of phase. -/
theorem built_calm_of {n : Node} (h : n.Calm) (hsilent : n.built.peerSilent = n.peerSilent)
    (hp : n.built.phaseConsequence false = none) : n.built.Calm := by
  have hcue : n.built.cue = n.cue := by simp [built]
  have hmoves (a : Axis) : n.built.headMoves a = n.headMoves a := by unfold headMoves headMove headCue; rw [hcue]
  refine calm_of_brakes (n := n.built) (fun a => ?_) ?_ hp
  · have haxis : n.built.axisDrive a = n.axisDrive a := by cases a <;> simp [built, axisDrive]
    have hplan : n.built.planner a = n.planner a := by cases a <;> simp [built, planner]
    have hrel : n.built.release a = n.release a := by unfold release; rw [hcue]
    have hfaults : n.built.faults = n.faults := by simp [built]
    have hmode : n.built.ringMode = n.ringMode := by simp [built]
    rw [haxis, brakesFollow_of_calm h a]
    unfold brakeCommand estopLatched
    rw [hfaults, hmoves, hrel, hplan, hcue, hmode]
  · have hw := wantedHolds_of_reads (m := n.built) (n := n) (by rw [hcue]) (by unfold inService; rw [hcue]) hsilent
      (hmoves .tilt) (by simp [built]) (by simp [built]) (by simp [built])
    rw [hw, hcue]
    exact (holds_of_calm h).symm

/-- After the build too the move goes on. -/
theorem built_calm {n : Node} (hfresh : ∀ e ∈ n.peers.entries, e.freshness = .fresh) (hp : n.cue.phase = .moving)
    (h : n.Calm) : n.built.Calm := by
  have hfresh' : ∀ e ∈ n.built.peers.entries, e.freshness = .fresh := fun e he => by
    obtain ⟨x, hx, rfl⟩ := List.mem_map.1 he
    split
    · rfl
    · exact hfresh x hx
  refine built_calm_of h ((peerSilent_of_fresh hfresh').trans (peerSilent_of_fresh hfresh).symm) ?_
  have hcue : n.built.cue = n.cue := by simp [built]
  have hmode : n.built.ringMode = n.ringMode := by simp [built]
  have hnone := phaseConsequence_of_done h
  have harrived (a : Axis) : axisArrived false a n.built = axisArrived false a n := by
    have hplan : n.built.planner a = n.planner a := by cases a <;> simp [built, planner]
    have hmoves : n.built.headMoves a = n.headMoves a := by unfold headMoves headMove headCue; rw [hcue]
    have hrel : n.built.release a = n.release a := by unfold release; rw [hcue]
    rw [axisArrived_between, axisArrived_between, hmoves, hrel, hmode, hplan]
  unfold phaseConsequence at hnone ⊢
  rw [hcue, hp] at *
  dsimp only at hnone ⊢
  rw [harrived, harrived]
  exact hnone

theorem moving_settles (h : Agreed n c rest) (hevent : n.statusEvent = false)
    (hown : ∀ e ∈ n.peers.entries, e.station = n.station → e.content.ringMode = n.ringMode)
    (hcalm : (n.moving c rest).Calm) : (n.moving c rest).Settles
      ∧ (n.moving c rest).announced = if n.peers.allowance then (n.moving c rest).built
          else { n.moving c rest with peers := { n.peers with pendingBuild := true } } := by
  have hbuild : build (n.moving c rest) = (n.moving c rest).built := by
    rw [build_eq, if_pos (built_towedSet (n := n.moving c rest) fun e he hs => ⟨h.fresh e he, hown e he hs⟩)]
  have hann : (n.moving c rest).announced = if n.peers.allowance then (n.moving c rest).built
      else { n.moving c rest with peers := { n.peers with pendingBuild := true } } := by
    unfold announced
    rw [hbuild]
    rfl
  refine ⟨⟨hevent, hcalm, ?_, ?_⟩, hann⟩
  · rw [hann]
    split
    · exact built_calm h.fresh rfl hcalm
    · exact hcalm
  · rw [hann]
    split
    · exact (show (n.moving c rest).built.statusEvent = (n.moving c rest).statusEvent by simp [built]).trans hevent
    · exact hevent

end

/-- What a build that judges no tow, or a pending mark, leaves as it was (R51). -/
theorem announced_keeps {m : Node} (h : m.announced = if m.peers.allowance then m.built
      else { m with peers := { m.peers with pendingBuild := true } }) :
    m.announced.cue = m.cue ∧ (∀ a, m.announced.planner a = m.planner a) ∧ (∀ a, m.announced.axisDrive a = m.axisDrive a)
      ∧ m.announced.faults = m.faults ∧ m.announced.rx = m.rx ∧ m.announced.ringMode = m.ringMode
      ∧ m.announced.supplyScale = m.supplyScale ∧ m.announced.inputs = m.inputs ∧ m.announced.monitor = m.monitor
      ∧ m.announced.cfg = m.cfg ∧ m.announced.tx.halt = m.tx.halt ∧ m.announced.tx.report = m.tx.report := by
  have hfill (f : List Byte) : (fillStatus f m).tx.halt = m.tx.halt ∧ (fillStatus f m).tx.report = m.tx.report := by
    unfold fillStatus
    dsimp only
    split <;> exact ⟨rfl, rfl⟩
  rw [h]
  split
  · refine ⟨by simp [built], fun a => ?_, fun a => ?_, by simp [built], by simp [built], by simp [built], by simp [built],
      by simp [built], by simp [built], by simp [built], (hfill _).1, (hfill _).2⟩
    · cases a <;> simp [built, planner]
    · cases a <;> simp [built, axisDrive]
  · exact ⟨rfl, fun a => by cases a <;> rfl, fun a => by cases a <;> rfl, rfl, rfl, rfl, rfl, rfl, rfl, rfl, rfl, rfl⟩

end Node

open Node

/-- Settles O43: the start comes next, its brakes follow, and the STATUS shows it; a towed set that breaks the limits is judged
in the entry to MOVING itself. -/
theorem moveStarts : Obligations.MoveStarts := by
  intro c rest n hphase hq hall hrefused hpermit hholds hwanted hfaults hevent happlied hown moves started lifted release cue
    breach b
  have harmed : n.allArmed c.id = true := by
    unfold allArmed
    rw [List.all_eq_true]
    intro e he
    obtain ⟨hf, h⟩ := hall e he
    rw [hf]
    rcases h with h | ⟨h, hp⟩
    · simp [h]
    · rcases hp with hp | hp | hp | hp | hp <;> simp [h, hp, Phase.countsArmed]
  have hfresh : ∀ e ∈ n.peers.entries, e.freshness = .fresh := fun e he => (hall e he).1
  have hunrefused : n.refusedByPeer c.id = false := by
    unfold refusedByPeer
    rw [List.any_eq_false]
    intro e he
    by_cases hs : e.station = n.station
    · simp [hs]
    · simp [hrefused e he hs]
  have h : Agreed n c rest :=
    ⟨hphase, hq, hfresh, harmed, hunrefused, hpermit, hholds, hwanted, hfaults, happlied⟩
  have hmove (a : Axis) : n.headMove a = moves a := by
    unfold headMove
    rw [headCue_cons hq]
    cases a <;> rfl
  have hplan (a : Axis) : n.startedPlanner a = started a := by
    show n.startedPlanner a = match moves a with | none => _ | some m => _
    rw [← hmove]
    rfl
  have henter : applyConsequence .start n = superviseTow n.started := rfl
  have hb : b = finish false (superviseTow n.started) := (finish_next h.next).trans (by rw [henter])
  have hjudge : (n.started.cue.phase.inMotion && n.started.headMoves .ring && n.started.towBreach) = decide breach := by
    have hmoves : n.started.headMoves .ring = (moves .ring).isSome := by
      unfold headMoves
      rw [started_headMove, hmove]
    have htow : n.started.towBreach = n.towBreach := by rw [started_eq hq]; rfl
    have hphase' : n.started.cue.phase.inMotion = true := by rw [started_eq hq]; rfl
    rw [hphase', hmoves, htow, Bool.true_and, Bool.eq_iff_iff, decide_eq_true_iff, Bool.and_eq_true,
      Option.isSome_iff_ne_none]
  refine ⟨fun hbreach hleft => ?_, fun hbreach => ?_⟩
  · have hleft' : ∃ a m, n.headMove a = some m ∧
        (m.target * 65536 ≠ (n.planner a).setpoint ∨ a = .ring ∧ n.ringMode = .towed) := by
      obtain ⟨a, m, hm, hoff⟩ := hleft
      exact ⟨a, m, (hmove a).trans hm, hoff⟩
    have hcalm := moving_calm h hleft'
    obtain ⟨hsettles, hann⟩ := moving_settles h hevent hown hcalm
    have hstart : superviseTow n.started = n.started := by
      unfold superviseTow raiseIf
      rw [hjudge, decide_eq_false hbreach]
      rfl
    have hfinal : b = (n.moving c rest).announced := by
      rw [hb, hstart]
      refine finish_of_settled ((settled_started h).trans ?_) hsettles
      exact settled_of_none hcalm
    obtain ⟨hcue, hplanner, hdrive, hfaults', hrx, hmode, hsupply, hinputs, hmonitor, hcfg, hhalt, hreport⟩ :=
      announced_keeps hann
    have hisMove (a : Axis) : n.headMoves a = (moves a).isSome := by unfold headMoves; rw [hmove]
    have hstate (a : Axis) : n.startedState a = release a := by
      show n.startedState a = match moves a with | none => n.release a | some _ => _
      unfold startedState
      rw [hisMove]
      cases moves a <;> rfl
    have hside (a : Axis) : n.startedDrive a = match moves a with
        | none => n.axisDrive a
        | some _ =>
          if (n.axisDrive a).supervision = .unsupervised then { n.axisDrive a with released := true }
          else if n.brakeLifted a then { n.axisDrive a with released := true, supervision := .agreed }
          else { n.axisDrive a with
            released := true, supervision := .changing, brakeTimer := Live.brakeTicks n.cfg.live } := by
      unfold startedDrive
      rw [hisMove]
      cases moves a <;> rfl
    have hfollows : n.StatusFollows b := by
      have hmark : b = finish false n.started := by rw [hb, hstart]
      rw [hmark]
      exact statusFollows_finish (by rw [started_eq hq]) (by rw [started_eq hq])
    rw [hfinal] at hfollows ⊢
    refine ⟨hcue.trans ?_, fun a => (hplanner a).trans ?_, fun a => (hdrive a).trans ?_, hfaults'.trans hfaults, hrx, hmode,
      hsupply, hinputs, hmonitor, hcfg, hhalt, hreport, hfollows⟩
    · have hwritten : (n.moving c rest).cue =
          { cue with ringRelease := n.startedState .ring, tiltRelease := n.startedState .tilt } := rfl
      rw [hwritten, hstate, hstate]
    · rw [← hplan]
      cases a <;> rfl
    · refine Eq.trans ?_ (hside a)
      cases a <;> rfl
  · intro m
    have hm : n.started = { m with statusEvent := true } := by
      have hrel (a : Axis) : n.startedRelease a = (moves a).elim (n.release a) fun _ => some .releasing := by
        unfold startedRelease
        rw [hmove]
      rw [started_eq hq, hplan, hplan, hrel, hrel]
      rfl
    have hserved : m.inService = true := rfl
    have hnone : m.faults.has .tow = false := by
      show n.faults.has .tow = false
      rw [hfaults]
      rfl
    have hraise : superviseTow n.started = raise .tow m := by
      unfold superviseTow raiseIf
      rw [hjudge, decide_eq_true hbreach, hm, raise_eq hserved hnone, raise_eq (by exact hserved) (by exact hnone)]
      rfl
    rw [hb, hraise]
    exact raise_taken hserved hnone

end Sys2Proof.Machine
end

section
/-! What a tick's timers, counts and checks do (R45, R49, R73, R78, R107, R111, R131 to R133, R143, R146, R148, R152, R176). -/

namespace Sys2Proof.Machine

namespace Node

/-- A check that raises a fault: nothing comes of it without its condition or where the fault is latched, and the fault is taken
otherwise (R117). -/
theorem raiseIf_judged {b : Bool} {k : FaultKind} {n : Node} {p : Prop} (hb : b = true ↔ p) (hs : n.inService = true) :
    (¬p ∨ n.faults.has k = true → raiseIf b k n = n)
      ∧ (p → n.faults.has k = false → n.FaultTaken k (finish false (raiseIf b k n))) := by
  refine ⟨fun h => ?_, fun hp hk => ?_⟩
  · unfold raiseIf
    split
    next ht => exact raise_of_barred (.inr (h.resolve_left (fun hn => hn (hb.1 ht))))
    next => rfl
  · unfold raiseIf
    rw [if_pos (hb.2 hp)]
    exact raise_taken hs hk

theorem enabled_iff (n : Node) (a : Axis) : n.enabled a = true ↔
    (n.axisDrive a).released = true ∧ n.level 0 = true ∧ (a = .ring → n.ringMode = .driven) := by
  unfold enabled chainClosed
  cases a <;> simp [and_assoc]

theorem skewChecked_iff (n : Node) (a : Axis) : n.skewChecked a = true ↔
    ((n.cue.phase = .moving ∨ n.cue.phase = .holding ∨ n.cue.phase = .stopping ∨ n.cue.phase = .settling)
        ∧ ∃ m, n.headMove a = some m)
      ∨ (n.cue.phase = .halted ∧ n.cue.ramping = true ∧ 0 < (n.planner a).velocity) := by
  unfold skewChecked
  rw [← inMotion_iff, Bool.or_eq_true, Bool.and_eq_true, headMoves_iff]
  simp [and_assoc]

theorem skewed_iff (n : Node) (a : Axis) : n.skewed a = true ↔
    ∃ x ∈ n.projections a, Live.window n.cfg.live a + Live.skewExcess n.cfg.live a < (n.measured a - x).natAbs := by
  unfold skewed live
  simp

theorem exists_axis {p : Axis → Prop} : (∃ a, p a) ↔ p .ring ∨ p .tilt :=
  ⟨fun ⟨a, h⟩ => by cases a; exacts [.inl h, .inr h], fun h => h.elim (⟨_, ·⟩) (⟨_, ·⟩)⟩

theorem forall_axis {p : Axis → Prop} : (∀ a, p a) ↔ p .ring ∧ p .tilt :=
  ⟨fun h => ⟨h _, h _⟩, fun h a => by cases a; exacts [h.1, h.2]⟩

end Node

open Node

/-- Settles O20, check by check. -/
theorem tickChecksRaiseFaults : Obligations.TickChecksRaiseFaults := by
  intro n hs enabled apart checked travels raises
  have henabled (a : Axis) : n.enabled a = true ↔ enabled a := n.enabled_iff a
  refine ⟨raiseIf_judged ?skew hs, raiseIf_judged ?drive hs, raiseIf_judged ?follow hs, raiseIf_judged ?limit hs⟩
  case skew =>
    rw [exists_axis, Bool.or_eq_true, Bool.and_eq_true, Bool.and_eq_true, skewChecked_iff, skewChecked_iff, skewed_iff,
      skewed_iff]
  case drive =>
    rw [Bool.and_eq_true, henabled]
    refine and_congr_right fun _ => ?_
    unfold tiltDriveFailed
    simp [or_assoc]
  case follow =>
    have hbroken (a : Axis) : n.followBroken a = true ↔ enabled a ∧ (n.axisDrive a).supervision = .agreed
        ∧ Live.follow n.cfg.live a < (wholeUnits (n.planner a).setpoint - n.measured a).natAbs := by
      unfold followBroken
      rw [Bool.and_eq_true, Bool.and_eq_true, Bool.and_eq_true, henabled, and_assoc, and_assoc]
      refine and_congr_right fun hen => ?_
      rw [hen.1]
      rw [beq_iff_eq, eq_self_iff_true, true_and, decide_eq_true_iff]
      rfl
    rw [exists_axis, Bool.or_eq_true, hbroken, hbroken]
  case limit => exact limitStruck_iff n

namespace Node

theorem ringDriveFailed_iff {n : Node} (hs : n.inService = true) : n.ringDriveFailed = true ↔
    (n.level 7 = false ∧ n.drive.ring.released = true ∧ n.level 0 = true ∧ n.ringMode = .driven)
      ∨ ∃ c : Fin 8, (n.liveRecord c).tripped = true ∧ Live.channelAction n.cfg.live c = actionTow := by
  unfold ringDriveFailed driveReady
  rw [Bool.or_eq_true, Bool.and_eq_true, enabled_iff, trippedWith_iff]
  simp only [Bool.not_eq_true', channelAction_of_inService hs, axisDrive, forall_true_left]

theorem mem_towedSet {n : Node} {st : Nat} : st ∈ n.towedSet ↔
    ∃ e ∈ n.peers.entries, e.station = st ∧ e.freshness ≠ .absent ∧ e.content.ringMode = .towed := by
  unfold towedSet
  simp only [List.mem_map, List.mem_filter, Bool.and_eq_true, bne_iff_ne, beq_iff_eq]
  exact ⟨fun ⟨e, ⟨he, ha, ht⟩, hs⟩ => ⟨e, he, hs, ha, ht⟩, fun ⟨e, he, hs, ha, ht⟩ => ⟨e, ⟨he, ha, ht⟩, hs⟩⟩

/-- The other stations' towed entries are those of the towed set but the own (R60, R132). -/
theorem towedOthers_length (n : Node) : (n.towedSet.filter (fun s => s != n.station)).length =
    (n.peers.entries.filter (fun e =>
      e.freshness ≠ .absent ∧ e.content.ringMode = .towed ∧ e.station ≠ n.station)).length := by
  unfold towedSet
  rw [List.filter_map, List.length_map, List.filter_filter]
  refine congrArg List.length (List.filter_congr fun e _ => ?_)
  rw [Bool.eq_iff_iff]
  simp only [Bool.and_eq_true, bne_iff_ne, beq_iff_eq, decide_eq_true_eq, Function.comp]
  exact ⟨fun ⟨ho, ha, ht⟩ => ⟨ha, ht, ho⟩, fun ⟨ha, ht, ho⟩ => ⟨ho, ha, ht⟩⟩

theorem towAllowed_iff (n : Node) : n.towAllowed = true ↔ Live.towPermitted n.cfg.live = true
      ∧ (n.peers.map.closed = true ∨ (n.peers.map.neighbours n.station).length = 2)
      ∧ (n.peers.entries.filter (fun e =>
          e.freshness ≠ .absent ∧ e.content.ringMode = .towed ∧ e.station ≠ n.station)).length < Live.towMax n.cfg.live
      ∧ ∀ st ∈ n.peers.map.neighbours n.station,
          ¬∃ e ∈ n.peers.entries, e.station = st ∧ e.freshness ≠ .absent ∧ e.content.ringMode = .towed := by
  unfold towAllowed
  dsimp only
  rw [towedOthers_length]
  simp only [← mem_towedSet]
  simp [live, neighbours, and_assoc]

end Node

/-- Settles O19, by the conditions of R131 and R132. -/
theorem towDecision : Obligations.TowDecision := by
  intro n hs enabled failure towed others allowed
  have hfailed : n.ringDriveFailed = true ↔ failure := by
    rw [ringDriveFailed_iff hs]
  have hallowed : n.towAllowed = true ↔ allowed := n.towAllowed_iff
  have hdecides (hf : failure) (hm : n.ringMode = .driven) (hk : n.faults.has .drive = false) :
      n.decideTow = if n.towAllowed then enterTowed n else raise .drive n := by
    unfold decideTow
    rw [hs, hfailed.2 hf, hm, hk]
    rfl
  refine ⟨fun h => ?_, fun hf hm hk ha => ?_, fun hf hm hk ha => ?_⟩
  · refine if_neg fun hc => ?_
    rw [Bool.and_eq_true, Bool.and_eq_true, Bool.and_eq_true, hfailed, beq_iff_eq] at hc
    obtain ⟨⟨⟨-, hf⟩, hm⟩, hk⟩ := hc
    rcases h with h | h | h
    · exact h hf
    · rw [h] at hm
      cases hm
    · rw [h] at hk
      cases hk
  · rw [hdecides hf hm hk, if_pos (hallowed.2 ha)]
    exact if_neg ((inService_iff _).1 hs).1
  · rw [hdecides hf hm hk, if_neg (fun h => ha (hallowed.1 h))]
    exact ⟨raise_taken hs hk, by rw [raise_ringMode, hm]⟩

namespace Node

/-! ### Timers and counts -/

theorem lowered_of_lt {t : Nat} (h : 1 < t) : lowered t = some (t - 1) := if_neg (by omega)

theorem lowered_of_le {t : Nat} (h : t ≤ 1) : lowered t = none := if_pos h

theorem inBand_iff (n : Node) (a : Axis) : n.inBand a = true ↔
    ∀ m, n.headMove a = some m → (n.measured a - m.target).natAbs ≤ Live.inpos n.cfg.live a := by
  unfold inBand live
  cases n.headMove a <;> simp

theorem freshnessAt_fresh {stale lost age : Nat} (h : age ≤ stale) : freshnessAt stale lost age = .fresh := if_pos h

theorem freshnessAt_stale {stale lost age : Nat} (h : stale < age) (hl : age ≤ lost) : freshnessAt stale lost age = .stale := by
  unfold freshnessAt
  rw [if_neg (by omega), if_pos hl]

theorem freshnessAt_lost {stale lost age : Nat} (h : stale < age) (hl : lost < age) : freshnessAt stale lost age = .lost := by
  unfold freshnessAt
  rw [if_neg (by omega), if_neg (by omega)]

/-- A brake whose feedback agrees with its output (R148). -/
theorem brakeAgrees_iff (n : Node) (a : Axis) : n.brakeAgrees a = true ↔ n.brakeLifted a = (n.axisDrive a).released := by
  unfold brakeAgrees
  rw [beq_iff_eq]

/-- Every tick watches an AGREED brake, and a CHANGING one whose time is up (R148). -/
theorem superviseBrake_watched {n : Node} {a : Axis} (h : (n.axisDrive a).supervision = .agreed
      ∨ (n.axisDrive a).supervision = .changing ∧ (n.axisDrive a).brakeTimer = 0) :
    superviseBrake a n = raiseIf (!n.brakeAgrees a) .brake n := by
  unfold superviseBrake
  dsimp only
  rcases h with h | ⟨h, ht⟩
  · rw [h]
  · rw [h]
    exact if_pos ht

theorem superviseBrake_changing {n : Node} {a : Axis} (h : (n.axisDrive a).supervision = .changing)
    (ht : (n.axisDrive a).brakeTimer ≠ 0) : superviseBrake a n = match lowered (n.axisDrive a).brakeTimer with
      | none => addDue (.brake a) n
      | some t => n.setAxisDrive a { n.axisDrive a with brakeTimer := t } := by
  unfold superviseBrake
  dsimp only
  rw [h]
  exact if_neg ht

end Node

/-- Settles O18, timer by timer. -/
theorem tickAdvancesCounts : Obligations.TickAdvancesCounts := by
  refine ⟨fun n t ht => ?status, fun n t ht => ?permit, fun n hp hr => ?arm, fun n t ht => ?recheck, fun n hp => ?settle,
    fun a n => ?brake, fun n hs e he habsent hother => ?age⟩
  case status =>
    unfold lowerStatusTimer
    rw [ht]
    dsimp only
    exact ⟨fun h => by rw [lowered_of_lt h], fun h => by rw [lowered_of_le h]; rfl⟩
  case permit =>
    unfold lowerPermitTimer
    rw [ht]
    dsimp only
    exact ⟨fun h => by rw [lowered_of_lt h], fun h => by rw [lowered_of_le h]; rfl⟩
  case arm =>
    unfold lowerArmTimer
    rw [if_pos ⟨hp, hr⟩]
    exact ⟨fun h => by rw [lowered_of_lt h], fun h => by rw [lowered_of_le h]; rfl⟩
  case recheck =>
    unfold lowerRecheckTimer
    rw [ht]
    dsimp only
    exact ⟨fun h => by rw [lowered_of_lt h], fun h => by rw [lowered_of_le h]; rfl⟩
  case settle =>
    intro inBand
    have hband : (n.inBand .ring && n.inBand .tilt) = true ↔ inBand := by
      rw [Bool.and_eq_true, inBand_iff, inBand_iff]
      exact (forall_axis (p := fun a => ∀ m, n.headMove a = some m →
        (n.measured a - m.target).natAbs ≤ Live.inpos n.cfg.live a)).symm
    unfold countSettle
    rw [if_pos hp]
    refine ⟨fun h => if_neg (mt hband.1 h), fun h hc => ?_, fun h hc => ?_⟩
    · rw [if_pos (hband.2 h)]
      exact if_neg (by simpa [live] using hc)
    · rw [if_pos (hband.2 h)]
      exact if_pos hc
  case brake =>
    intro d feedback watched
    have hlift : n.brakeLifted a = feedback := by cases a <;> rfl
    have hagree : (!n.brakeAgrees a) = true ↔ feedback ≠ d.released := by
      rw [Bool.not_eq_true', ← Bool.not_eq_true, brakeAgrees_iff, hlift]
    refine ⟨fun h => ?_, fun h ht => ?_, fun h ht => ?_, fun h hno => ?_, fun h hne hs hk => ?_⟩
    · unfold superviseBrake
      dsimp only
      rw [h]
    · have ht' : 1 < (n.axisDrive a).brakeTimer := ht
      rw [superviseBrake_changing h (by omega), lowered_of_lt ht]
    · have ht' : (n.axisDrive a).brakeTimer = 1 := ht
      rw [superviseBrake_changing h (by omega), lowered_of_le (by omega)]
      rfl
    · rw [superviseBrake_watched h]
      unfold raiseIf
      split
      next hn => exact raise_of_barred (hno.resolve_left (hagree.1 hn))
      next => rfl
    · rw [superviseBrake_watched h]
      exact (raiseIf_judged hagree hs).2 hne hk
  case age =>
    intro age stale lost hlt
    have hentries : n.agePeers.peers.entries = n.peers.entries.map (fun e => (n.ageEntry e).1)
        ∧ n.agePeers.due = n.due ++ n.peers.entries.flatMap (fun e => (n.ageEntry e).2) := by
      unfold agePeers
      rw [if_pos hs]
      exact ⟨rfl, rfl⟩
    have written (x : Entry) (h : (n.ageEntry e).1 = x) : x ∈ n.agePeers.peers.entries := by
      rw [hentries.1]
      exact List.mem_map.2 ⟨e, he, h⟩
    have marked (d : Due) (h : (n.ageEntry e).2 = [d]) : d ∈ n.agePeers.due := by
      rw [hentries.2, List.mem_append]
      exact .inr (List.mem_flatMap.2 ⟨e, he, by rw [h]; exact List.mem_singleton.2 rfl⟩)
    have hage : n.ageEntry e =
        let f := freshnessAt stale lost age
        if e.freshness = .fresh ∧ f = .stale then (e, [.peerStale e.station])
        else if e.freshness ≠ .lost ∧ f = .lost then (e, [.peerLost e.station])
        else ({ e with age := e.age.bump, freshness := f }, []) := if_neg (by simp [habsent, hother])
    refine ⟨fun hf h => written _ ?_, fun hf h1 h2 => ?_, fun hf h1 h2 => written _ ?_, fun hf h => ?_, fun hf h => written _ ?_⟩
    · rw [hage, freshnessAt_fresh h, ← hf]
      simp [hf]
    · rw [freshnessAt_stale h1 h2] at hage
      have : n.ageEntry e = (e, [.peerStale e.station]) := by rw [hage]; simp [hf]
      exact ⟨written _ (by rw [this]), marked _ (by rw [this])⟩
    · rw [hage, freshnessAt_stale h1 h2, ← hf]
      simp [hf]
    · rw [freshnessAt_lost (by omega) h] at hage
      have : n.ageEntry e = (e, [.peerLost e.station]) := by
        rw [hage]
        rcases hf with hf | hf <;> simp [hf]
      exact ⟨written _ (by rw [this]), marked _ (by rw [this])⟩
    · rw [hage, freshnessAt_lost (by omega) h, ← hf]
      simp [hf]

end Sys2Proof.Machine
end

section
/-! The planners at a tick, regime by regime (R90 to R106). -/

namespace Sys2Proof.Machine

namespace Planner

/-! ### The window clamp (R96, R97) -/

theorem foldl_max_eq {x most : Int} {l : List Int} (hm : most ∈ x :: l) (h : ∀ y ∈ x :: l, y ≤ most) :
    l.foldl max x = most :=
  Option.some.inj (List.max?_cons'.symm.trans (List.max?_eq_some_iff.2 ⟨hm, h⟩))

theorem foldl_min_eq {x least : Int} {l : List Int} (hm : least ∈ x :: l) (h : ∀ y ∈ x :: l, least ≤ y) :
    l.foldl min x = least :=
  Option.some.inj (List.min?_cons'.symm.trans (List.min?_eq_some_iff.2 ⟨hm, h⟩))

theorem clamp_clampsTo (p : Planner) (l : List Int) (w : Nat) (c : Int) : p.ClampsTo l w c (p.clamp l w c) := by
  refine ⟨fun h => by rw [h]; rfl, fun most hmost least hleast hall => ?_⟩
  cases l with
  | nil => cases hmost
  | cons x rest =>
    intro lower upper bound
    have hclamp : p.clamp (x :: rest) w c =
        if upper < lower then p.setpoint
        else if signOf p.up * c ≤ signOf p.up * bound then c
        else if signOf p.up * p.setpoint ≤ signOf p.up * bound then bound
        else p.setpoint := by
      unfold clamp
      dsimp only
      rw [foldl_max_eq hmost fun y hy => (hall y hy).2, foldl_min_eq hleast fun y hy => (hall y hy).1]
    rw [hclamp]
    refine ⟨fun h => if_pos h, fun h hc => ?_, fun h hc hs => ?_, fun h hc hs => ?_⟩ <;> rw [if_neg (not_lt.2 h)]
    · exact if_pos hc
    · exact (if_neg (not_le.2 hc)).trans (if_pos hs)
    · exact (if_neg (not_le.2 hc)).trans (if_neg (not_le.2 hs))

/-- The clamp takes no axis further past a projection than the window (R97). -/
theorem clamp_window (p : Planner) {l : List Int} (w : Nat) (c : Int) {x : Int} (hx : x ∈ l) :
    (p.up = true → p.clamp l w c ≤ max p.setpoint ((x + w) * 65536))
      ∧ (p.up = false → min p.setpoint ((x - w) * 65536) ≤ p.clamp l w c) := by
  cases l with
  | nil => cases hx
  | cons y rest =>
    have hmin : rest.foldl min y ≤ x :=
      (List.min?_eq_some_iff.1 (List.min?_cons' (x := y) (xs := rest))).2 x hx
    have hmax : x ≤ rest.foldl max y :=
      (List.max?_eq_some_iff.1 (List.max?_cons' (x := y) (xs := rest))).2 x hx
    unfold clamp
    dsimp only
    refine ⟨fun hu => ?_, fun hu => ?_⟩ <;> rw [hu] <;> simp only [signOf, if_true, if_false, Bool.false_eq_true] <;>
      split <;> (try split) <;> (try split) <;> omega

/-- A commit within the window goes from the setpoint to the target by the step taken, `v` at most (R95 to R98). -/
theorem commit_clamped {p : Planner} (h : 0 ≤ p.remaining) (v w : Nat) (l : List Int) :
    let q := p.commit (p.clamp l w (p.candidate v))
    q.velocity ≤ v ∧ (q.velocity : Int) = p.remaining - q.remaining ∧ 0 ≤ q.remaining
      ∧ ∀ x ∈ l, (p.up = true → q.setpoint ≤ max p.setpoint ((x + w) * 65536))
        ∧ (p.up = false → min p.setpoint ((x - w) * 65536) ≤ q.setpoint) := by
  intro q
  obtain ⟨hcand, hfar⟩ := candidate_ahead h v
  obtain ⟨hahead, hle⟩ := clamp_ahead h hcand l w
  have hvel := commit_velocity hahead
  refine ⟨?_, ?_, commit_remaining hahead, fun x hx => clamp_window p w _ hx⟩
  · have : (q.velocity : Int) ≤ v := hvel.trans_le (hle.trans hfar)
    omega
  · refine hvel.trans ?_
    show _ = signOf p.up * (p.target - p.setpoint) - signOf p.up * (p.target - p.clamp l w (p.candidate v))
    ring

/-- A commit of a bare candidate takes the target once it is within reach (R95, R98). -/
theorem commit_candidate (p : Planner) (v : Nat) :
    (p.commit (p.candidate v)).velocity = (if p.remaining ≤ v then p.remaining.toNat else v)
      ∧ (p.commit (p.candidate v)).setpoint = (if p.remaining ≤ v then p.target else p.setpoint + signOf p.up * v) := by
  refine ⟨?_, rfl⟩
  unfold commit candidate
  dsimp only
  split
  · rfl
  · rcases signOf_cases p.up with hd | hd <;> rw [hd] <;> omega

end Planner

namespace Node

/-! ### The regimes of a tick (R90) -/

theorem underway_iff (n : Node) (a : Axis) : n.underway a = true ↔ n.headMoves a = true ∧ n.release a = some .released := by
  unfold underway
  rw [Bool.and_eq_true, beq_iff_eq]

theorem follows_iff (n : Node) (a : Axis) :
    n.follows a = true ↔ n.faults.has .estop = true ∨ a = .ring ∧ n.ringMode = .towed := by
  unfold follows estopLatched
  simp

section
variable {a : Axis} {n : Node}

theorem planAxis_follow (hs : n.inService = true) (hf : n.follows a = true) : planAxis a n =
    n.setPlanner a ((n.planner a).follow (Live.softLimits n.live a) (n.measured a)) := by
  unfold planAxis
  rw [if_neg (by rw [hs]; decide), if_pos hf]

theorem planAxis_profile (hs : n.inService = true) (hf : n.follows a = false) (hp : n.cue.phase = .moving)
    (hu : n.underway a = true) : planAxis a n = profileTick a n := by
  unfold planAxis
  rw [if_neg (by rw [hs]; decide), if_neg (by rw [hf]; decide), if_pos ⟨hp, hu⟩]

theorem planAxis_controlled (hs : n.inService = true) (hf : n.follows a = false)
    (hp : n.cue.phase = .holding ∨ n.cue.phase = .stopping) (hu : n.underway a = true) :
    planAxis a n = controlledTick a n := by
  unfold planAxis
  rw [if_neg (by rw [hs]; decide), if_neg (by rw [hf]; decide),
    if_neg (fun h => by rcases hp with e | e <;> rw [h.1] at e <;> cases e), if_pos ⟨hp, hu⟩]

theorem planAxis_emergency (hs : n.inService = true) (hf : n.follows a = false)
    (h : n.cue.phase = .halted ∧ n.cue.ramping = true ∧ 0 < (n.planner a).velocity) : planAxis a n = emergencyTick a n := by
  unfold planAxis
  rw [if_neg (by rw [hs]; decide), if_neg (by rw [hf]; decide), if_neg (by rw [h.1]; simp), if_neg (by rw [h.1]; simp),
    if_pos h]

theorem planAxis_held (hs : n.inService = true) (hf : n.follows a = false)
    (hu : ¬((n.cue.phase = .moving ∨ n.cue.phase = .holding ∨ n.cue.phase = .stopping) ∧ n.underway a = true))
    (hr : ¬(n.cue.phase = .halted ∧ n.cue.ramping = true ∧ 0 < (n.planner a).velocity)) :
    planAxis a n = n.setPlanner a (n.planner a).hold := by
  unfold planAxis
  rw [if_neg (by rw [hs]; decide), if_neg (by rw [hf]; decide), if_neg (fun h => hu ⟨.inl h.1, h.2⟩),
    if_neg (fun h => hu ⟨.inr h.1, h.2⟩), if_neg hr]

end

theorem planner_setPlanner (a : Axis) (p : Planner) (n : Node) : (n.setPlanner a p).planner a = p := by cases a <;> rfl

/-- Outside MOVING a tick writes a planner alone, its target and direction as they were and its pinch count 0 (R99). -/
theorem planAxis_unprofiled {a : Axis} {n : Node} (hs : n.inService = true)
    (h : ¬(n.cue.phase = .moving ∧ n.underway a = true ∧ n.follows a = false)) :
    ∃ q : Planner, planAxis a n = n.setPlanner a q ∧ q.target = (n.planner a).target ∧ q.up = (n.planner a).up
      ∧ q.pinch = 0 := by
  cases hf : n.follows a with
  | true => exact ⟨_, planAxis_follow hs hf, rfl, rfl, rfl⟩
  | false =>
    unfold planAxis
    rw [if_neg (by rw [hs]; decide), if_neg (by rw [hf]; decide), if_neg (fun g => h ⟨g.1, g.2, hf⟩)]
    split
    · exact ⟨_, rfl, rfl, rfl, rfl⟩
    · split <;> exact ⟨_, rfl, rfl, rfl, rfl⟩

/-- What a tick of the MOVING profile leaves of the axis but for its pinch count (R93 to R98). -/
theorem profileTick_planner (a : Axis) (n : Node) : ∃ pinch, (profileTick a n).planner a = { n.profileStep a with pinch } := by
  unfold profileTick
  dsimp only
  split
  · split
    · exact ⟨(n.profileStep a).pinch, by cases a <;> rfl⟩
    · exact ⟨_, planner_setPlanner a _ n⟩
  · exact ⟨_, planner_setPlanner a _ n⟩

/-- The ring's cap is derated while a station is towed (R138). -/
theorem derate_eq {a : Axis} {n : Node} {d : Nat}
    (htow : a = .ring → (∃ e ∈ n.peers.entries, e.freshness ≠ .absent ∧ e.content.ringMode = .towed) →
      d = Live.towDerate n.cfg.live)
    (hno : ¬(a = .ring ∧ ∃ e ∈ n.peers.entries, e.freshness ≠ .absent ∧ e.content.ringMode = .towed) → d = 256) :
    n.derate a = d := by
  cases a with
  | tilt => exact (hno (fun h => by cases h.1)).symm
  | ring =>
    have hiff : n.towedSet.isEmpty = false ↔
        ∃ e ∈ n.peers.entries, e.freshness ≠ .absent ∧ e.content.ringMode = .towed := by
      rw [List.isEmpty_eq_false_iff_exists_mem]
      simp only [mem_towedSet]
      exact ⟨fun ⟨_, e, he, _, h⟩ => ⟨e, he, h⟩, fun ⟨e, he, h⟩ => ⟨_, e, he, rfl, h⟩⟩
    unfold derate live
    cases hempty : n.towedSet.isEmpty with
    | true =>
      refine (if_pos rfl).trans (hno fun h => ?_).symm
      rw [hiff.2 h.2] at hempty
      cases hempty
    | false => exact (htow rfl (hiff.1 hempty)).symm

end Node

open Node

/-- A profile velocity is at most a step above the velocity memory, and above neither the memory, the cap nor the step (R94). -/
theorem profileVelocity_bounds (v cap a : Nat) (r : Int) :
    profileVelocity v cap a r ≤ v + a ∧ profileVelocity v cap a r ≤ max v (max cap a) := by
  unfold profileVelocity
  split
  · omega
  · split <;> omega

/-- Settles O15, by the commit of a clamped candidate. -/
theorem movingTickIsBounded : Obligations.MovingTickIsBounded := by
  intro a n hphase hmoves hrel hestop hmode hrem p q step
  have hs : n.inService = true := by unfold inService; rw [hphase]; rfl
  have htick : planAxis a n = profileTick a n :=
    planAxis_profile hs (follows_false hestop hmode) hphase ((underway_iff n a).2 ⟨hmoves, hrel⟩)
  obtain ⟨pinch, hplanner⟩ := profileTick_planner a n
  have hq : q = { n.profileStep a with pinch } := by
    show (planAxis a n).planner a = _
    rw [htick, hplanner]
  obtain ⟨hle, hvel, hahead, hwindow⟩ := Planner.commit_clamped (p := p) hrem
    (profileVelocity p.velocity (n.cap a) (n.normalStep a) p.remaining) (Live.window n.live a) (n.projections a)
  obtain ⟨hstep, hmax⟩ := profileVelocity_bounds p.velocity (n.cap a) (n.normalStep a) p.remaining
  have hset (r : Planner) : (n.setPlanner a r).planner a = r := planner_setPlanner a r n
  have hvelocity : q.velocity = (n.profileStep a).velocity := by rw [hq]
  have hsetpoint : q.setpoint = (n.profileStep a).setpoint := by rw [hq]
  have htarget : q.target = (n.profileStep a).target := by rw [hq]
  have hremaining : q.remaining = (n.profileStep a).remaining := by rw [hq]; rfl
  refine ⟨htarget, by rw [hq]; rfl, hremaining ▸ hahead, ?_, ?_, ?_, ?_, ?_, fun hpinched => ?_, fun hfree => ?_⟩
  · have hback : (n.profileStep a).remaining ≤ p.remaining := by
      have hvel' : ((n.profileStep a).velocity : Int) = p.remaining - (n.profileStep a).remaining := hvel
      omega
    rw [hremaining]
    exact hback
  · rw [hvelocity, hremaining]
    exact hvel
  · rw [hvelocity]
    exact hle.trans hstep
  · rw [hvelocity]
    exact hle.trans hmax
  · rw [hsetpoint]
    exact hwindow
  · rw [hvelocity, hsetpoint, htarget] at hpinched
    have hwritten : profileTick a n = if Live.pinchTicks n.cfg.live ≤ p.pinch + 1 then
          { n.setPlanner a (n.profileStep a) with due := n.due ++ [.pinch a] }
        else n.setPlanner a { n.profileStep a with pinch := p.pinch + 1 } := if_pos hpinched
    split
    next hend =>
      rw [if_pos hend] at hwritten
      have hq' : q = n.profileStep a := by
        show (planAxis a n).planner a = _
        rw [htick, hwritten]
        cases a <;> rfl
      rw [hq', htick, hwritten]
      exact ⟨rfl, rfl⟩
    next hend =>
      rw [if_neg hend] at hwritten
      have hq' : q = { n.profileStep a with pinch := p.pinch + 1 } := by
        show (planAxis a n).planner a = _
        rw [htick, hwritten, hset]
      rw [hq', htick, hwritten]
      exact ⟨rfl, rfl⟩
  · rw [hvelocity, hsetpoint, htarget] at hfree
    have hwritten : profileTick a n = n.setPlanner a { n.profileStep a with pinch := 0 } := if_neg hfree
    have hq' : q = { n.profileStep a with pinch := 0 } := by
      show (planAxis a n).planner a = _
      rw [htick, hwritten, hset]
    rw [hq', htick, hwritten]
    exact ⟨rfl, rfl⟩

/-- Settles O16, by the rules of R92 to R98 in turn. -/
theorem movingTickFollowsProfile : Obligations.MovingTickFollowsProfile := by
  refine ⟨?_, ?_⟩
  · intro n hs heard demand budget
    have hrescale : n.rescale = { n with supplyScale := supplyScaleOf budget n.demandSum } := if_pos hs
    have hsum : n.demandSum = demand := by
      unfold demandSum
      have hheard : n.peers.entries.filter (fun e => e.freshness == .fresh || e.freshness == .stale) = heard :=
        List.filter_congr fun e _ => by rw [Bool.eq_iff_iff]; simp
      rw [hheard]
    have hscale : n.rescale.supplyScale = supplyScaleOf budget demand := by rw [hrescale, hsum]
    refine ⟨by rw [hrescale], fun h => ?_, fun h => ?_, ?_, ?_⟩
    · rw [hscale]
      exact if_pos h
    · rw [hscale]
      refine (if_neg (not_le.2 h)).trans ?_
      split <;> omega
    · rw [hscale]
      exact (supplyScaleOf_bounds _ _).1
    · rw [hscale]
      exact (supplyScaleOf_bounds _ _).2
  · intro a m n hphase hmove hrel hestop hmode p q d r step reach towed derate hderate hplain cap v c
    have hs : n.inService = true := by unfold inService; rw [hphase]; rfl
    have hmoves : n.headMoves a = true := by unfold headMoves; rw [hmove]; rfl
    have htick : planAxis a n = profileTick a n :=
      planAxis_profile hs (follows_false hestop hmode) hphase ((underway_iff n a).2 ⟨hmoves, hrel⟩)
    obtain ⟨pinch, hplanner⟩ := profileTick_planner a n
    have hcap : n.cap a = cap := by
      unfold Node.cap
      rw [hmove, derate_eq hderate hplain]
      rfl
    have hq : q = { p.commit (p.clamp (n.projections a) (Live.window n.cfg.live a) c) with pinch } := by
      show (planAxis a n).planner a = _
      rw [htick, hplanner]
      unfold profileStep
      rw [hcap]
      rfl
    rw [hq]
    exact ⟨p.clamp_clampsTo _ _ _, rfl⟩

/-- Settles O17, regime by regime. -/
theorem otherRegimesOfTick : Obligations.OtherRegimesOfTick := by
  intro a n hs p q follows planned ramped soft
  have hfol : n.follows a = true ↔ follows := n.follows_iff a
  have hunder : n.underway a = true ↔ planned := n.underway_iff a
  have hnot (h : ¬follows) : n.follows a = false := by simpa using mt hfol.1 h
  refine ⟨fun h => ?other, fun h => ?follow, fun h hp hu => ?controlled, fun h hp hu hrem => ?bounds,
    fun h hr hrem => ?emergency, fun h hr hu => ?held⟩
  case other =>
    obtain ⟨r, hr, hfields⟩ := planAxis_unprofiled (a := a) hs
      (fun g => h ⟨g.1, hunder.1 g.2.1, fun hf => by rw [hfol.2 hf] at g; exact absurd g.2.2 (by decide)⟩)
    have hq : q = r := by
      show (planAxis a n).planner a = r
      rw [hr, planner_setPlanner]
    rw [hq]
    exact ⟨hr, hfields⟩
  case follow =>
    have hq : q = p.follow soft (n.measured a) := by
      show (planAxis a n).planner a = _
      rw [planAxis_follow hs (hfol.2 h), planner_setPlanner]
      rfl
    rw [hq]
    exact ⟨rfl, rfl⟩
  case controlled =>
    intro d v c
    have hq : q = { p.commit (n.clamped a (p.rampCandidate (n.normalStep a))) with pinch := 0 } := by
      show (planAxis a n).planner a = _
      rw [planAxis_controlled hs (hnot h) hp (hunder.2 hu)]
      exact planner_setPlanner a _ n
    rw [hq]
    exact ⟨p.clamp_clampsTo _ _ _, rfl⟩
  case bounds =>
    have hq : q = { p.commit (n.clamped a (p.rampCandidate (n.normalStep a))) with pinch := 0 } := by
      show (planAxis a n).planner a = _
      rw [planAxis_controlled hs (hnot h) hp (hunder.2 hu)]
      exact planner_setPlanner a _ n
    rw [hq]
    exact Planner.commit_clamped hrem _ _ _
  case emergency =>
    intro v
    have hq : q = { p.commit (p.candidate v) with pinch := 0 } := by
      show (planAxis a n).planner a = _
      rw [planAxis_emergency hs (hnot h) hr]
      exact planner_setPlanner a _ n
    rw [hq]
    exact Planner.commit_candidate _ v
  case held =>
    have hq : q = p.hold := by
      show (planAxis a n).planner a = _
      rw [planAxis_held hs (hnot h) (by rw [hunder]; exact hu) hr]
      exact planner_setPlanner a _ n
    rw [hq]
    exact ⟨rfl, rfl⟩

end Sys2Proof.Machine
end

section
/-! What the other blocks see of the Peer Table: the ring neighbours, the projections and the views (R43, R48, R55 to R60, R139). -/

namespace Sys2Proof.Machine

/-! ### Strictly ascending lists -/

theorem head?_eq_some_of_ascending {l : List Nat} (h : l.Pairwise (· < ·)) (b : Nat) :
    l.head? = some b ↔ b ∈ l ∧ ∀ i ∈ l, b ≤ i := by
  cases l with
  | nil => simp
  | cons x rest =>
    obtain ⟨hx, -⟩ := List.pairwise_cons.1 h
    simp only [List.head?_cons, Option.some.injEq, List.mem_cons, forall_eq_or_imp]
    refine ⟨fun e => e ▸ ⟨.inl rfl, le_refl _, fun i hi => (hx i hi).le⟩, fun ⟨hb, hle, _⟩ => ?_⟩
    rcases hb with rfl | hb
    · rfl
    · exact absurd (hx b hb) (by omega)

theorem getLast?_eq_some_of_ascending {l : List Nat} (h : l.Pairwise (· < ·)) (b : Nat) :
    l.getLast? = some b ↔ b ∈ l ∧ ∀ i ∈ l, i ≤ b := by
  rcases List.eq_nil_or_concat l with rfl | ⟨rest, x, rfl⟩
  · simp
  · rw [List.concat_eq_append] at h ⊢
    obtain ⟨-, -, hx⟩ := List.pairwise_append.1 h
    simp only [List.getLast?_concat, Option.some.injEq, List.mem_append, List.mem_singleton]
    refine ⟨fun e => e ▸ ⟨.inr rfl, fun i hi => ?_⟩, fun ⟨hb, hle⟩ => ?_⟩
    · rcases hi with hi | rfl
      · exact (hx i hi x (by simp)).le
      · exact le_refl _
    · rcases hb with hb | rfl
      · exact absurd (hx b hb x (by simp)) (by have := hle x (.inr rfl); omega)
      · rfl

namespace RingMap

section
variable {m : RingMap} {s : Nat}

/-- The below neighbour: the nearest fitted station under it, or in a closed ring the highest for the lowest (R43). -/
theorem below_eq_some (hm : m.fitted.Pairwise (· < ·)) (b : Nat) : m.below s = some b ↔
    b ∈ m.fitted ∧ ((b < s ∧ ∀ i ∈ m.fitted, i < s → i ≤ b)
      ∨ (m.closed = true ∧ (∀ i ∈ m.fitted, s ≤ i) ∧ s < b ∧ ∀ i ∈ m.fitted, i ≤ b)) := by
  have hunder := getLast?_eq_some_of_ascending (hm.filter (fun i => decide (i < s)))
  have hover := getLast?_eq_some_of_ascending (hm.filter (fun i => decide (s < i)))
  simp only [List.mem_filter, decide_eq_true_eq] at hunder hover
  unfold below
  cases hl : (m.fitted.filter (fun i => decide (i < s))).getLast? with
  | some x =>
    have hx := (hunder x).1 hl
    dsimp only
    rw [← hl, hunder]
    exact ⟨fun ⟨⟨hb, hlt⟩, hle⟩ => ⟨hb, .inl ⟨hlt, fun i hi his => hle i ⟨hi, his⟩⟩⟩, fun ⟨hb, h⟩ => by
      rcases h with ⟨hlt, hle⟩ | ⟨-, hleast, -⟩
      · exact ⟨⟨hb, hlt⟩, fun i hi => hle i hi.1 hi.2⟩
      · exact absurd (hleast x hx.1.1) (by omega)⟩
  | none =>
    have hleast : ∀ i ∈ m.fitted, s ≤ i := by
      rw [List.getLast?_eq_none_iff, List.filter_eq_nil_iff] at hl
      simpa using hl
    dsimp only
    have hout : ¬(b < s ∧ ∀ i ∈ m.fitted, i < s → i ≤ b) ∨ b ∉ m.fitted := by
      by_cases hb : b ∈ m.fitted
      · exact .inl fun h => absurd (hleast b hb) (by omega)
      · exact .inr hb
    split
    next hc =>
      rw [hover]
      exact ⟨fun ⟨⟨hb, hlt⟩, hle⟩ => ⟨hb, .inr ⟨hc, hleast, hlt, fun i hi => by
          rcases Nat.lt_or_ge s i with h | h
          · exact hle i ⟨hi, h⟩
          · omega⟩⟩,
        fun ⟨hb, h⟩ => by
          rcases h with h | ⟨-, -, hlt, hle⟩
          · exact absurd h (hout.resolve_right (not_not.2 hb))
          · exact ⟨⟨hb, hlt⟩, fun i hi => hle i hi.1⟩⟩
    next hc =>
      refine ⟨nofun, fun ⟨hb, h⟩ => ?_⟩
      rcases h with h | ⟨h, -⟩
      · exact absurd h (hout.resolve_right (not_not.2 hb))
      · exact absurd h hc

/-- The above neighbour: the nearest fitted station over it, or in a closed ring the lowest for the highest (R43). -/
theorem above_eq_some (hm : m.fitted.Pairwise (· < ·)) (b : Nat) : m.above s = some b ↔
    b ∈ m.fitted ∧ ((s < b ∧ ∀ i ∈ m.fitted, s < i → b ≤ i)
      ∨ (m.closed = true ∧ (∀ i ∈ m.fitted, i ≤ s) ∧ b < s ∧ ∀ i ∈ m.fitted, b ≤ i)) := by
  have hover := head?_eq_some_of_ascending (hm.filter (fun i => decide (s < i)))
  have hunder := head?_eq_some_of_ascending (hm.filter (fun i => decide (i < s)))
  simp only [List.mem_filter, decide_eq_true_eq] at hunder hover
  unfold above
  cases hl : (m.fitted.filter (fun i => decide (s < i))).head? with
  | some x =>
    have hx := (hover x).1 hl
    dsimp only
    rw [← hl, hover]
    exact ⟨fun ⟨⟨hb, hlt⟩, hle⟩ => ⟨hb, .inl ⟨hlt, fun i hi his => hle i ⟨hi, his⟩⟩⟩, fun ⟨hb, h⟩ => by
      rcases h with ⟨hlt, hle⟩ | ⟨-, hmost, -⟩
      · exact ⟨⟨hb, hlt⟩, fun i hi => hle i hi.1 hi.2⟩
      · exact absurd (hmost x hx.1.1) (by omega)⟩
  | none =>
    have hmost : ∀ i ∈ m.fitted, i ≤ s := by
      rw [List.head?_eq_none_iff, List.filter_eq_nil_iff] at hl
      simpa using hl
    dsimp only
    have hout (hb : b ∈ m.fitted) : ¬(s < b ∧ ∀ i ∈ m.fitted, s < i → b ≤ i) := fun h =>
      absurd (hmost b hb) (by omega)
    split
    next hc =>
      rw [hunder]
      exact ⟨fun ⟨⟨hb, hlt⟩, hle⟩ => ⟨hb, .inr ⟨hc, hmost, hlt, fun i hi => by
          rcases Nat.lt_or_ge i s with h | h
          · exact hle i ⟨hi, h⟩
          · omega⟩⟩,
        fun ⟨hb, h⟩ => by
          rcases h with h | ⟨-, -, hlt, hle⟩
          · exact absurd h (hout hb)
          · exact ⟨⟨hb, hlt⟩, fun i hi => hle i hi.1⟩⟩
    next hc =>
      refine ⟨nofun, fun ⟨hb, h⟩ => ?_⟩
      rcases h with h | ⟨h, -⟩
      · exact absurd h (hout hb)
      · exact absurd h hc

theorem mem_neighbours (x : Nat) : x ∈ m.neighbours s ↔ m.below s = some x ∨ m.above s = some x := by
  unfold neighbours
  cases m.below s with
  | none => simp
  | some low =>
    simp only [List.mem_cons, List.mem_filter, Option.mem_toList, bne_iff_ne, Option.some.injEq]
    refine ⟨fun h => ?_, fun h => ?_⟩
    · exact h.imp Eq.symm And.left
    · by_cases hx : x = low
      · exact .inl hx
      · exact .inr ⟨h.resolve_left (Ne.symm hx), hx⟩

theorem neighbours_nodup : (m.neighbours s).Nodup := by
  have hone : (m.above s).toList.Nodup := by cases m.above s <;> simp
  unfold neighbours
  cases m.below s with
  | none => exact hone
  | some low => exact List.nodup_cons.2 ⟨by simp, hone.filter _⟩

/-- No station is its own neighbour. -/
theorem ne_of_neighbour (hm : m.fitted.Pairwise (· < ·)) {x : Nat} (h : x ∈ m.neighbours s) : s ≠ x := by
  rcases (mem_neighbours x).1 h with h | h
  · rcases ((below_eq_some hm x).1 h).2 with ⟨h, -⟩ | ⟨-, -, h, -⟩ <;> omega
  · rcases ((above_eq_some hm x).1 h).2 with ⟨h, -⟩ | ⟨-, -, h, -⟩ <;> omega

theorem adjacent_iff (hm : m.fitted.Pairwise (· < ·)) (x : Nat) :
    m.adjacent s x = true ↔ x ∈ m.neighbours s := by
  unfold adjacent
  rw [Bool.and_eq_true, bne_iff_ne, List.contains_iff_mem]
  exact and_iff_right_of_imp (ne_of_neighbour hm)

/-- A station is above the one that is below it. -/
theorem below_iff_above (hm : m.fitted.Pairwise (· < ·)) (hs : s ∈ m.fitted) {x : Nat} (hx : x ∈ m.fitted) :
    m.below s = some x ↔ m.above x = some s := by
  rw [below_eq_some hm, above_eq_some hm]
  refine ⟨fun ⟨_, h⟩ => ⟨hs, ?_⟩, fun ⟨_, h⟩ => ⟨hx, ?_⟩⟩
  · rcases h with ⟨hlt, hle⟩ | ⟨hc, hleast, hlt, hmost⟩
    · exact .inl ⟨hlt, fun i hi hxi => Nat.not_lt.1 fun his => absurd (hle i hi his) (by omega)⟩
    · exact .inr ⟨hc, hmost, hlt, hleast⟩
  · rcases h with ⟨hlt, hle⟩ | ⟨hc, hmost, hlt, hleast⟩
    · exact .inl ⟨hlt, fun i hi his => Nat.not_lt.1 fun hxi => absurd (hle i hi hxi) (by omega)⟩
    · exact .inr ⟨hc, hleast, hlt, hmost⟩

theorem adjacent_comm (hm : m.fitted.Pairwise (· < ·)) (hs : s ∈ m.fitted) {x : Nat} (hx : x ∈ m.fitted) :
    m.adjacent x s = m.adjacent s x := by
  rw [Bool.eq_iff_iff, adjacent_iff hm, adjacent_iff hm, mem_neighbours, mem_neighbours, below_iff_above hm hx hs,
    ← below_iff_above hm hs hx, or_comm]

end

end RingMap

namespace Node

/-! ### Entries and projections -/

/-- Under the entry law each entry is the one its station finds (R42). -/
theorem entry_eq_some {n : Node} (h : n.EntryLaw) {e : Entry} (he : e ∈ n.peers.entries) : n.entry e.station = some e := by
  cases hf : n.entry e.station with
  | none =>
    have := List.find?_eq_none.1 hf e he
    simp at this
  | some x =>
    have hxs := entry_station hf
    have hnodup : (n.peers.entries.map (·.station)).Nodup := List.Pairwise.imp (fun hlt => Nat.ne_of_lt hlt) h
    rw [List.inj_on_of_nodup_map hnodup (entry_mem hf) he hxs]

theorem mem_projections {n : Node} (h : n.EntryLaw) (a : Axis) (x : Int) : x ∈ n.projections a ↔
    ∃ e ∈ n.peers.entries, e.station ∈ n.peers.map.neighbours n.station ∧ n.projectionOf a e = some x := by
  unfold projections neighbours
  rw [List.mem_filterMap]
  constructor
  · rintro ⟨st, hst, hx⟩
    obtain ⟨e, he, hx⟩ := Option.bind_eq_some_iff.1 hx
    exact ⟨e, entry_mem he, by rw [entry_station he]; exact hst, hx⟩
  · rintro ⟨e, he, hst, hx⟩
    exact ⟨e.station, hst, by rw [entry_eq_some h he]; exact hx⟩

end Node

open Node

/-- Settles O14: the neighbours by the ascending stations, the views entry by entry. -/
theorem peerTableViews : Obligations.PeerTableViews := by
  refine ⟨fun m s hm hs => ⟨RingMap.below_eq_some hm, RingMap.above_eq_some hm, RingMap.neighbours_nodup,
    RingMap.mem_neighbours, RingMap.adjacent_iff hm, fun x hx => RingMap.adjacent_comm hm hs hx⟩, fun n hlaw => ?_⟩
  intro towed
  refine ⟨fun a x hs => ?_, fun st => mem_towedSet, ?_, fun c => ?_, fun c => ?_, fun c => ?_, ?_⟩
  · rw [mem_projections hlaw]
    refine exists_congr fun e => and_congr_right fun _ => and_congr_right fun _ => ?_
    have hticks : n.statusPeriod = Live.statusPeriod n.cfg.live := if_pos hs
    unfold projectionOf
    rw [hticks]
    cases a <;> cases e.freshness <;> simp [eq_comm]
  · refine List.Nodup.sublist (List.Sublist.map _ List.filter_sublist) ?_
    exact List.Pairwise.imp (fun hlt => Nat.ne_of_lt hlt) hlaw
  · unfold allArmed
    rw [List.all_eq_true]
    refine forall₂_congr fun e _ => ?_
    have hcounts : e.content.phase.countsArmed = true ↔ e.content.phase = .armed ∨ e.content.phase = .moving
        ∨ e.content.phase = .holding ∨ e.content.phase = .settling ∨ e.content.phase = .done := by
      cases e.content.phase <;> simp [Phase.countsArmed]
    simp only [Bool.and_eq_true, Bool.or_eq_true, beq_iff_eq, hcounts]
    exact and_congr_right fun _ => or_comm
  · unfold allDone
    rw [List.all_eq_true]
    refine forall₂_congr fun e _ => ?_
    simp only [Bool.and_eq_true, Bool.or_eq_true, beq_iff_eq, bne_iff_ne, or_assoc, and_assoc]
  · unfold refusedByPeer
    rw [List.any_eq_true]
    refine exists_congr fun e => and_congr_right fun _ => ?_
    simp only [Bool.and_eq_true, beq_iff_eq, bne_iff_ne, and_assoc]
  · unfold towBreach RingMap.anyAdjacent
    simp only [Bool.or_eq_true, List.any_eq_true, decide_eq_true_eq]
    rfl

end Sys2Proof.Machine
end

section
/-! INQUIRE and its REPORT pages (R180 to R183, section 2.5), and RESET (R177, R178). -/

namespace Sys2Proof.Machine

/-! ### RESET (R177, R178) -/

/-- At a reset PERMIT alone is present (R112, R128). -/
theorem CueCtl.initial_holds (c : HoldCause) : CueCtl.initial.holds.has c = true ↔ c = .permit := by cases c <;> decide

/-- A soft reset leaves nothing outstanding. -/
theorem Node.softReset_calm (n : Node) : (softReset n).Calm := by
  refine calm_of_brakes (fun a => ?_) ?_ rfl
  · have hstill : (softReset n).brakeCommand a = false := brakeCommand_still rfl (show Phase.starting ≠ .halted by decide) a
    rw [hstill]
    cases a <;> rfl
  · exact (wantedHolds_outOfService rfl).trans (show HoldSet.when .permit true = 1 by decide)

theorem Node.refusesReset_iff (n : Node) : n.refusesReset = true ↔ n.cue.phase = .moving ∨ n.cue.phase = .holding
    ∨ n.cue.phase = .stopping ∨ n.cue.phase = .settling ∨ (n.cue.phase = .halted ∧ n.cue.ramping = true) := by
  unfold refusesReset
  rw [Bool.or_eq_true, inMotion_iff]
  simp [or_assoc]

open Node

/-- Settles O50: refused while moving, and otherwise the soft reset. -/
theorem resetRefusedOrTaken : Obligations.ResetRefusedOrTaken := by
  intro straps f rest s ⟨hlisten, hevent, hcalm⟩ hq hk hfate n refuses
  have hhead : applyReset n = if n.refusesReset then
        setFate .accepted { n with counters := { n.counters with resetRefused := n.counters.resetRefused.bump } }
      else softReset n := withHead_of_head (n := n) hq hk hfate
  have hrefuses : n.refusesReset = true ↔ refuses := n.refusesReset_iff
  refine ⟨fun h => ?_, fun h => ⟨softReset n, ?_, ?_⟩⟩
  · rw [if_pos (hrefuses.2 h)] at hhead
    exact takeStep_calm (effect := fun m => applyReset { m with cfg := { m.cfg with strapPins := straps } }) hlisten hhead
      ((nextConsequence_congr false).trans (straps_calm straps hcalm)) hevent
  · rw [if_neg (mt hrefuses.1 h)] at hhead
    exact takeStep_calm (effect := fun m => applyReset { m with cfg := { m.cfg with strapPins := straps } }) hlisten hhead
      (softReset_calm n) rfl
  · have hlength : n.rx.queue.length - 1 = rest.length := by rw [show n.rx.queue = f :: rest from hq]; rfl
    have hmissed : (softReset n).counters.missed = BitVec.ofNat 16 (min (s.node.counters.missed.toNat + rest.length) 65535) := by
      rw [← hlength]
      rfl
    refine ⟨rfl, rfl, rfl, rfl, rfl, rfl, rfl, rfl, fun k => by cases k <;> rfl, rfl, rfl, rfl, rfl, rfl, rfl, rfl, rfl, rfl,
      rfl, rfl, rfl, rfl, rfl, rfl, rfl, rfl, rfl, rfl, rfl, rfl, CueCtl.initial_holds, fun a => ?_, rfl, rfl, rfl,
      fun a => ?_, rfl, rfl, rfl, rfl, rfl, fun c => ?_, rfl, rfl, rfl, ?_⟩
    · cases a <;> exact ⟨rfl, rfl⟩
    · cases a <;> exact ⟨rfl, rfl, rfl, rfl⟩
    · show (Vector.replicate 8 LiveRecord.initial).get c = _
      simp [Vector.get_eq_getElem, LiveRecord.initial]
    · rw [hmissed, BitVec.toNat_ofNat, Nat.min_comm]
      exact Nat.mod_eq_of_lt (by omega)

/-! ### The REPORT pages (section 2.5) -/

theorem moveBytes_eq (width : Nat) (m : Option AxisMove) :
    moveBytes width m = signedBytes width (m.elim 0 (·.target)) ++ bytesBE 2 (m.elim 0 (·.speed)) := by
  cases m with
  | none => simp [moveBytes, signedBytes]
  | some m => rfl

theorem cueBytes_eq (c : Cue) : cueBytes c = bytesBE 2 c.id.toNat
    ++ [BitVec.ofNat 8 ((if c.interrupted then 1 else 0) + (if c.ring.isSome then 2 else 0) + (if c.tilt.isSome then 4 else 0))]
    ++ (signedBytes 3 (c.ring.elim 0 (·.target)) ++ bytesBE 2 (c.ring.elim 0 (·.speed)))
    ++ (signedBytes 2 (c.tilt.elim 0 (·.target)) ++ bytesBE 2 (c.tilt.elim 0 (·.speed))) := by
  unfold cueBytes
  rw [moveBytes_eq, moveBytes_eq]
  cases c.interrupted <;> cases c.ring.isSome <;> cases c.tilt.isSome <;> rfl

theorem entryBytes_eq (e : Entry) : entryBytes e = [BitVec.ofNat 8 e.station]
    ++ [BitVec.ofNat 8 (e.content.phase.code
      + 16 * (match e.freshness with | .absent => 0 | .fresh => 1 | .stale => 2 | .lost => 3)
      + (if e.content.ringMode = .towed then 64 else 0))]
    ++ [BitVec.ofNat 8 (min e.age.toNat 255)] ++ bytesBE 2 e.content.current.toNat ++ bytesBE 2 e.content.lastDone.toNat
    ++ [BitVec.ofNat 8 e.content.demand.toNat] := by
  unfold entryBytes
  rw [BitVec.ofNat_toNat, BitVec.setWidth_eq]
  cases e.content.ringMode <;> cases e.freshness <;> rfl

theorem Node.channelBytes_eq (n : Node) (i : Fin 8) : n.channelBytes i =
    [BitVec.ofNat 8 ((if n.inService = true ∧ Live.channelEnabled n.cfg.live i = true then 1 else 0)
        + (if (n.liveRecord i).tripped then 2 else 0))]
      ++ signedBytes 2 (n.liveRecord i).last ++ [BitVec.ofNat 8 (n.liveRecord i).outRun]
      ++ [BitVec.ofNat 8 (n.liveRecord i).inRun]
      ++ [BitVec.ofNat 8 (if n.inService then Live.channelAction n.cfg.live i else 0)] := by
  unfold channelBytes channelEnabled channelAction live
  cases n.inService <;> cases Live.channelEnabled n.cfg.live i <;>
    cases h : (n.liveRecord i).tripped <;> simp [actionReport, h]

/-- The page answered is one of the six (R31). -/
theorem pageAnswered_le (page : Nat) : pageAnswered page ≤ 5 := by
  unfold pageAnswered
  split <;> omega

/-- Settles O49: the page by its number, and the slot by its state. -/
theorem inquireAnswered : Obligations.InquireAnswered := by
  intro f rest s ⟨hlisten, hevent, hcalm⟩ hq hk hfate n asked page n0 one served move c body report
  have hhead : applyInquire s.node = _ := withHead_of_head (n := s.node) hq hk hfate
  have hasked : field (framePayload f) 1 1 = asked := by
    rw [field_one]
    unfold framePayload
    rw [byteAt_drop]
  have hpage : pageAnswered (field (framePayload f) 1 1) = page := by
    unfold pageAnswered
    rw [hasked]
    show _ = if 5 < asked then 0 else asked
    split <;> split <;> omega
  have hclear : byteAt (framePayload f) 2 = byteAt f 10 := by
    unfold framePayload
    rw [byteAt_drop]
  have hle : page ≤ 5 := hpage ▸ pageAnswered_le _
  have hbody : s.node.pageBody page = body := by
    rcases (by omega : page = 0 ∨ page = 1 ∨ page = 2 ∨ page = 3 ∨ page = 4 ∨ page = 5) with e | e | e | e | e | e <;>
      simp only [body, e]
    · have hmode : s.node.ringMode.code = if s.node.ringMode = .towed then 1 else 0 := by cases s.node.ringMode <;> rfl
      show [BitVec.ofNat 8 s.node.station] ++ bytesBE 2 s.node.groupTag ++ bytesBE 2 s.node.cfg.lastDigest.toNat
        ++ bytesBE 2 s.node.cfg.startDigest.toNat
        ++ [BitVec.ofNat 8 s.node.cue.phase.code, BitVec.ofNat 8 s.node.cfg.status.code,
            BitVec.ofNat 8 s.node.ringMode.code] = _
      rw [hmode]
      simp only [one, List.append_assoc, List.cons_append, List.nil_append]
      rfl
    · rfl
    · have hcues : s.node.cue.queue.flatMap cueBytes = s.node.cue.queue.flatMap (fun x => bytesBE 2 x.id.toNat
          ++ one ((if x.interrupted then 1 else 0) + (if x.ring.isSome then 2 else 0) + (if x.tilt.isSome then 4 else 0))
          ++ move 3 x.ring ++ move 2 x.tilt) := congrArg (List.flatMap · _) (funext cueBytes_eq)
      have hends : (fun r : Retired => bytesBE 2 r.id.toNat ++ [BitVec.ofNat 8 r.how.code]) = fun x =>
          bytesBE 2 x.id.toNat ++ one (match x.how with | .done => 0 | .failed => 1 | .cancelled => 2) :=
        funext fun r => by cases h : r.how <;> rfl
      have hrecord : (match s.node.cue.haltRecord with
          | some h => [1, BitVec.ofNat 8 h.origin, BitVec.ofNat 8 h.reason.code]
          | none => [0, 0, 0]) = (match s.node.cue.haltRecord with
          | some h => one 1 ++ one h.origin ++ one h.reason.code
          | none => one 0 ++ one 0 ++ one 0) := by cases s.node.cue.haltRecord <;> rfl
      show [BitVec.ofNat 8 s.node.cue.queue.length] ++ s.node.cue.queue.flatMap cueBytes
        ++ [BitVec.ofNat 8 s.node.cue.retired.length] ++ s.node.cue.retired.flatMap _ ++ _ ++ _ ++ _ = _
      rw [hcues, hends]
      exact congrArg (_ ++ ·) hrecord
    · have hentries := congrArg (fun g => [BitVec.ofNat 8 s.node.peers.entries.length] ++ s.node.peers.entries.flatMap g
        ++ bytesBE 2 s.node.supplyScale) (funext entryBytes_eq)
      exact hentries
    · have hchannels := congrArg channels.flatMap (funext s.node.channelBytes_eq)
      exact hchannels
    · have hmask : s.node.attentionMask = BitVec.ofNat 8 (served (Live.attentionMask s.node.cfg.live).toNat) := by
        show (if s.node.inService then Live.attentionMask s.node.cfg.live else 0)
          = BitVec.ofNat 8 (if s.node.inService then (Live.attentionMask s.node.cfg.live).toNat else 0)
        split
        · rw [BitVec.ofNat_toNat, BitVec.setWidth_eq]
        · rfl
      show [s.node.inputs.levels, s.node.inputs.changed, s.node.attentionMask] ++ bytesBE 2 s.node.faults.toNat = _
      rw [hmask]
      simp only [one, BitVec.ofNat_toNat, BitVec.setWidth_eq]
      rfl
  have hreport : Slot.fresh (s.node.reportFrame f) = report := by
    unfold reportFrame
    dsimp only
    rw [hpage, hbody]
    rfl
  refine ⟨fun h => ?_, fun h => ?_⟩
  · rw [if_pos h] at hhead
    dsimp only at hhead
    rw [hpage, hclear, hreport] at hhead
    refine takeStep_calm hlisten (hhead.trans ?_) ((nextConsequence_congr false).trans hcalm) hevent
    by_cases hc : page = 1 ∧ (byteAt f 10).getLsbD 0 = true
    · rw [if_pos hc, if_pos (by rw [hc.1, hc.2]; rfl)]
      rfl
    · rw [if_neg hc, if_neg (by simpa using hc)]
      rfl
  · rw [if_neg h] at hhead
    exact takeStep_calm hlisten hhead ((nextConsequence_congr false).trans hcalm) hevent

end Sys2Proof.Machine
end

section
/-! The build of the own STATUS (R12, R51, R52, R54, R139) and the expiry of its period (R49). -/

namespace Sys2Proof.Machine

namespace Node

/-! ### A halt builds no STATUS, so it overruns none -/

theorem enterHalted_statusOverruns (n : Node) : (enterHalted n).counters.statusOverruns = n.counters.statusOverruns := by
  have hretire : (retireHead .cancelled n).counters.statusOverruns = n.counters.statusOverruns := by
    unfold retireHead
    split <;> rfl
  unfold enterHalted
  simp only [setPhase_counters]
  split
  · exact hretire
  · simp

theorem raise_statusOverruns (k : FaultKind) (n : Node) :
    (raise k n).counters.statusOverruns = n.counters.statusOverruns := by
  have hrequest (m : Node) : (requestHalt k m).counters.statusOverruns = m.counters.statusOverruns := by
    unfold requestHalt
    split <;> rfl
  cases hs : n.inService with
  | false => rw [raise_of_barred (.inl hs)]
  | true =>
    cases hk : n.faults.has k with
    | true => rw [raise_of_barred (.inr hk)]
    | false =>
      rw [raise_eq hs hk, hrequest]
      have hlatched : (latched k n).counters = n.counters := (latched_same k n).2.2.2.2.2.1
      split
      · rw [hlatched]
      · show (enterHalted _).counters.statusOverruns = _
        rw [enterHalted_statusOverruns, hlatched]

theorem superviseTow_statusOverruns (n : Node) :
    (superviseTow n).counters.statusOverruns = n.counters.statusOverruns := by
  unfold superviseTow raiseIf
  split
  · exact raise_statusOverruns _ _
  · rfl

/-! ### What a build hands to the slot (R12) -/

theorem build_statusOverruns (n : Node) :
    (build n).counters.statusOverruns = (fillStatus n.statusFrame n).counters.statusOverruns := by
  rw [build_eq]
  split
  · rfl
  · exact superviseTow_statusOverruns _

theorem fillStatus_empty {n : Node} (f : List Byte) (h : n.tx.status.state = .empty) :
    fillStatus f n = { n with tx := { n.tx with status := Slot.fresh f } } := by
  unfold fillStatus
  dsimp only
  rw [h]

/-- Content placed over a frame that waits or is on the line is counted (R12). -/
theorem fillStatus_replaces {n : Node} (f : List Byte) (h : n.tx.status.state ≠ .empty) : fillStatus f n = { n with
    tx := { n.tx with status := { n.tx.status with
      content := f
      replaced := if n.tx.status.state = .sending then true else n.tx.status.replaced } }
    counters := { n.counters with statusOverruns := n.counters.statusOverruns.bump } } := by
  unfold fillStatus
  dsimp only
  cases hst : n.tx.status.state with
  | empty => exact absurd hst h
  | _ => simp

/-! ### The demand (R54) -/

theorem drawing_iff (p : Phase) : p.drawing = true ↔
    p = .armed ∨ p = .moving ∨ p = .holding ∨ p = .stopping ∨ p = .settling := by
  cases p <;> simp [Phase.drawing, Phase.inMotion]

/-- The demand by its ring and tilt terms (R54). -/
theorem demand_eq {n : Node} {r t : Nat}
    (hring : n.cue.phase.drawing = true ∧ (∃ m, n.headMove .ring = some m) ∧ n.ringMode = .driven →
      r = Live.ringDemand n.cfg.live + Live.towShare n.cfg.live
        * ((n.neighbours.filter (fun st => n.towedSet.contains st)).length))
    (hnoring : ¬(n.cue.phase.drawing = true ∧ (∃ m, n.headMove .ring = some m) ∧ n.ringMode = .driven) → r = 0)
    (htilt : n.cue.phase.drawing = true ∧ (∃ m, n.headMove .tilt = some m) → t = Live.tiltDemand n.cfg.live)
    (hnotilt : ¬(n.cue.phase.drawing = true ∧ ∃ m, n.headMove .tilt = some m) → t = 0) :
    n.demand = BitVec.ofNat 8 (min 255 (r + t)) := by
  have hr : (n.cue.phase.drawing && n.headMoves .ring && n.ringMode == .driven) = true ↔
      n.cue.phase.drawing = true ∧ (∃ m, n.headMove .ring = some m) ∧ n.ringMode = .driven := by
    rw [Bool.and_eq_true, Bool.and_eq_true, headMoves_iff, beq_iff_eq, and_assoc]
  have ht : (n.cue.phase.drawing && n.headMoves .tilt) = true ↔
      n.cue.phase.drawing = true ∧ ∃ m, n.headMove .tilt = some m := by
    rw [Bool.and_eq_true, headMoves_iff]
  have hr' : r = if (n.cue.phase.drawing && n.headMoves .ring && n.ringMode == .driven) = true then
      Live.ringDemand n.cfg.live + Live.towShare n.cfg.live
        * ((n.neighbours.filter (fun st => n.towedSet.contains st)).length) else 0 := by
    split
    next h => exact hring (hr.1 h)
    next h => exact hnoring (mt hr.2 h)
  have ht' : t = if (n.cue.phase.drawing && n.headMoves .tilt) = true then Live.tiltDemand n.cfg.live else 0 := by
    split
    next h => exact htilt (ht.1 h)
    next h => exact hnotilt (mt ht.2 h)
  unfold demand
  rw [hr', ht', Nat.min_comm]
  rfl

theorem entry_unique {n : Node} (h : n.EntryLaw) {x y : Entry} (hx : x ∈ n.peers.entries) (hy : y ∈ n.peers.entries)
    (hs : x.station = y.station) : x = y := by
  have := (entry_eq_some h hx).symm.trans (hs ▸ entry_eq_some h hy)
  exact Option.some.inj this

/-! ### The own ring mode in the towed set (R60, R139) -/

/-- A build changes the towed set exactly where it changes the own ring mode. -/
theorem built_towedSet_iff {n : Node} (hlaw : n.EntryLaw) {e : Entry} (he : e ∈ n.peers.entries)
    (hown : e.station = n.station) (hfresh : e.freshness = .fresh) :
    n.built.towedSet = n.towedSet ↔ e.content.ringMode = n.ringMode := by
  refine ⟨fun h => ?_, fun h => built_towedSet fun x hx hxs => ?_⟩
  · have hbefore : n.station ∈ n.towedSet ↔ e.content.ringMode = .towed := by
      rw [mem_towedSet]
      refine ⟨fun ⟨x, hx, hxs, _, ht⟩ => ?_, fun ht => ⟨e, he, hown, by rw [hfresh]; decide, ht⟩⟩
      rwa [← entry_unique hlaw hx he (hxs.trans hown.symm)]
    have hafter : n.station ∈ n.built.towedSet ↔ n.ringMode = .towed := by
      rw [mem_towedSet]
      refine ⟨fun ⟨x, hx, hxs, _, ht⟩ => ?_, fun ht => ?_⟩
      · obtain ⟨y, -, rfl⟩ := List.mem_map.1 hx
        split at ht
        next => exact ht
        next hne =>
          rw [if_neg hne] at hxs
          exact absurd (by simpa using hxs) hne
      · exact ⟨_, List.mem_map.2 ⟨e, he, if_pos (by simpa using hown)⟩, rfl, Freshness.noConfusion, ht⟩
    rw [h, hbefore] at hafter
    cases hm : e.content.ringMode <;> cases hn : n.ringMode <;> simp_all
  · rw [entry_unique hlaw hx he (hxs.trans hown.symm)]
    exact ⟨hfresh, h⟩

end Node

open Node

/-- Settles O24: the Peer Table and the slot as a build leaves them, and the judgement of a changed ring mode. -/
theorem buildWritesOwnStatus : Obligations.BuildWritesOwnStatus := by
  intro n seq live motion moves carried ringTerm tiltTerm hring hnoring htilt hnotilt content frame peers built
  have hdrawing : n.cue.phase.drawing = true ↔ n.cue.phase = .armed ∨ motion := drawing_iff _
  have hcarried : n.neighbours.filter (fun st => n.towedSet.contains st) = carried := by
    refine List.filter_congr fun st _ => ?_
    rw [Bool.eq_iff_iff, List.contains_iff_mem, mem_towedSet, List.any_eq_true]
    simp only [decide_eq_true_eq]
  have hdemand : n.demand = BitVec.ofNat 8 (min 255 (ringTerm + tiltTerm)) := by
    refine demand_eq ?_ ?_ ?_ ?_ <;> rw [hdrawing]
    · rw [hcarried]
      exact hring
    · exact hnoring
    · exact htilt
    · exact hnotilt
  have hcontent : n.ownContent = content := by
    have hcurrent : n.currentCue = match n.cue.queue with | [] => 0 | c :: _ => c.id := by
      unfold currentCue headCue
      cases n.cue.queue <;> rfl
    have hramping : (n.cue.phase == .halted && n.cue.ramping) = (decide (n.cue.phase = .halted) && n.cue.ramping) := by
      rw [Bool.beq_eq_decide_eq]
    unfold ownContent
    rw [hdemand, hcurrent, hramping]
    rfl
  have hframe : n.statusFrame = frame := by
    unfold statusFrame
    rw [hcontent]
  have hpeers : n.build.peers = peers := by
    rw [build_peers, hcontent]
    simp only [beq_iff_eq]
    rfl
  have hstatus : n.build.tx.status = (fillStatus frame n).tx.status := hframe ▸ build_tx_status n
  have hover : n.build.counters.statusOverruns = (fillStatus frame n).counters.statusOverruns := hframe ▸ build_statusOverruns n
  have hfill : fillStatus frame n = { n with
      tx := { n.tx with status := n.build.tx.status }
      counters := { n.counters with statusOverruns := n.build.counters.statusOverruns } } := by
    rw [hstatus, hover]
    by_cases h : n.tx.status.state = .empty
    · rw [fillStatus_empty _ h]
    · rw [fillStatus_replaces _ h]
  have hbuilt : n.built = built := by
    have hwritten : n.built = dropDue .statusPeriod { fillStatus n.statusFrame n with peers := n.build.peers } := by
      rw [build_peers]
      rfl
    rw [hwritten, hframe, hfill, hpeers, dropDue_eq]
  refine ⟨hpeers, fun h => ?_, fun h => ?_, build_rx n, build_drive n, build_inputs n, build_monitor n, build_cfg n,
    build_ringMode n, build_supplyScale n, fun hlaw e he hown hfresh => ?_, ?_⟩
  · rw [hstatus, hover, fillStatus_empty _ h]
    exact ⟨rfl, rfl⟩
  · rw [hstatus, hover, fillStatus_replaces _ h]
    exact ⟨rfl, rfl, rfl, fun hs => if_pos hs, rfl⟩
  · intro judged
    have hsame : n.built.towedSet = n.towedSet ↔ e.content.ringMode = n.ringMode :=
      built_towedSet_iff hlaw he hown hfresh
    have hcue : n.built.cue = n.cue := by simp [Node.built]
    have hmoves : n.built.headMoves .ring = n.headMoves .ring := by unfold headMoves headMove headCue; rw [hcue]
    have hjudge : (n.built.cue.phase.inMotion && n.built.headMoves .ring && n.built.towBreach) = true ↔
        motion ∧ moves .ring ∧ built.towBreach = true := by
      rw [Bool.and_eq_true, Bool.and_eq_true, hmoves, hcue, inMotion_iff, headMoves_iff, hbuilt, and_assoc]
    have hfaults : n.built.faults = n.faults := by simp [Node.built]
    refine ⟨fun h => ?_, fun h hk => ?_⟩
    · rw [build_eq, ← hbuilt]
      split
      next => rfl
      next hchanged =>
        unfold superviseTow raiseIf
        split
        next hj =>
          refine raise_of_barred (.inr (hfaults ▸ h.resolve_left fun hno => hno ?_))
          exact ⟨fun hm => hchanged (hsame.2 hm), hjudge.1 hj⟩
        next => rfl
    · obtain ⟨hmode, hj⟩ := h
      have hraise : n.build = raise .tow n.built := by
        rw [build_eq, if_neg (mt hsame.1 hmode)]
        unfold superviseTow raiseIf
        rw [if_pos (hjudge.2 hj)]
      rw [hraise, ← hbuilt]
      refine raise_taken ?_ (hfaults ▸ hk)
      exact inService_of_inMotion (by rw [hcue, inMotion_iff]; exact hj.1)
  · intro s ⟨hlisten, hevent, hcalm⟩ hn hdue hquiet hnone
    have heff : takeDue .statusPeriod s.node = n.build := by
      rw [takeDue_of_mem hdue, dropDue_eq, ← hn]
      rfl
    exact takeStep_calm hlisten heff hquiet hnone

end Sys2Proof.Machine
end

section
/-! The STATUS payload, field by field (section 2.2, R27). -/

namespace Sys2Proof.Machine

/-! ### Numbers as bytes -/

theorem beNat_append_one (l : List Byte) (b : Byte) : beNat (l ++ [b]) = beNat l * 256 + b.toNat := by
  unfold beNat
  rw [List.foldl_append]
  rfl

theorem bytesBE_length (w n : Nat) : (bytesBE w n).length = w := by
  induction w generalizing n with
  | zero => rfl
  | succ w ih =>
    unfold bytesBE
    rw [List.length_append, ih]
    rfl

/-- A number that fits its bytes is read back. -/
theorem beNat_bytesBE {w n : Nat} (h : n < 256 ^ w) : beNat (bytesBE w n) = n := by
  induction w generalizing n with
  | zero =>
    rw [Nat.pow_zero] at h
    rw [Nat.lt_one_iff.1 h]
    rfl
  | succ w ih =>
    rw [Nat.pow_succ] at h
    unfold bytesBE
    rw [beNat_append_one, ih (Nat.div_lt_of_lt_mul (by omega)), BitVec.toNat_ofNat]
    omega

theorem beNat_one (b : Byte) : beNat [b] = b.toNat := by
  unfold beNat
  simp

/-- A two's complement number in its range is read back. -/
theorem signedOf_ofInt {bits : Nat} {i : Int} (hb : 0 < bits) (hl : -2 ^ (bits - 1) ≤ i) (hh : i < 2 ^ (bits - 1)) :
    signedOf bits (BitVec.ofInt bits i).toNat = i := by
  have hpow : 2 ^ bits = 2 * 2 ^ (bits - 1) := by rw [← pow_succ', Nat.sub_add_cancel hb]
  have hread : signedOf bits (BitVec.ofInt bits i).toNat = (BitVec.ofInt bits i).toInt := by
    rw [BitVec.toInt_eq_toNat_cond]
    unfold signedOf
    rw [hpow]
    simp only [Nat.mul_lt_mul_left (show 0 < 2 by decide)]
    split
    · rfl
    · have hpowInt : (2 : Int) ^ bits = 2 * 2 ^ (bits - 1) := by exact_mod_cast hpow
      push_cast
      rw [hpowInt]
  rw [hread, BitVec.toInt_ofInt_eq_self hb hl hh]

/-- What a number's field says back (log entry 4 has the numbers outside their ranges). -/
theorem ringField_reads {p : Int} (hl : -8388608 ≤ p) (hh : p ≤ 8388607) :
    ∃ r, ringField p = bytesBE 3 r ∧ r < 256 ^ 3 ∧ signedOf 24 r = p :=
  ⟨(BitVec.ofInt 24 p).toNat, if_pos ⟨hl, hh⟩, (BitVec.ofInt 24 p).isLt, signedOf_ofInt (by decide) (by omega) (by omega)⟩

theorem velocityField_reads {u : Int} (hl : -32768 ≤ u) (hh : u ≤ 32767) :
    ∃ r, velocityField u = bytesBE 2 r ∧ r < 256 ^ 2 ∧ signedOf 16 r = u :=
  ⟨(BitVec.ofInt 16 u).toNat, if_pos ⟨hl, hh⟩, (BitVec.ofInt 16 u).isLt, signedOf_ofInt (by decide) (by omega) (by omega)⟩

theorem tiltField_reads {t : Int} (hl : 0 ≤ t) (hh : t ≤ 65535) :
    ∃ r, tiltField t = bytesBE 2 r ∧ r < 256 ^ 2 ∧ (r : Int) = t :=
  ⟨t.toNat, if_pos ⟨hl, hh⟩, by omega, Int.toNat_of_nonneg hl⟩

/-! ### Codes by their place in the tables -/

theorem phase_ofCode (k : Nat) : [Phase.starting, .configFault, .idle, .armed, .moving, .holding, .stopping, .settling, .done,
    .halted][k]? = Phase.ofCode k := by
  rcases Nat.lt_or_ge k 10 with h | h
  · interval_cases k <;> rfl
  · rw [List.getElem?_eq_none h]
    unfold Phase.ofCode
    split <;> first | omega | rfl

theorem reason_ofCode (k : Nat) : [CueReason.none, .state, .full, .range, .shape, .stowed, .config, .peerRefused,
    .timeout][k]? = CueReason.ofCode k := by
  rcases Nat.lt_or_ge k 9 with h | h
  · interval_cases k <;> rfl
  · rw [List.getElem?_eq_none h]
    unfold CueReason.ofCode
    split <;> first | omega | rfl

theorem Phase.ofCode_code (p : Phase) : Phase.ofCode p.code = some p := by cases p <;> rfl

theorem CueReason.ofCode_code (r : CueReason) : CueReason.ofCode r.code = some r := by cases r <;> rfl

theorem HoldCause.bit_of_place {i : Nat} {h : HoldCause}
    (hi : [HoldCause.permit, .peer, .personnel, .stowed, .monitor][i]? = some h) : h.bit = i := by
  rcases Nat.lt_or_ge i 5 with hlt | hge
  · interval_cases i <;> cases hi <;> rfl
  · rw [List.getElem?_eq_none hge] at hi
    cases hi

theorem FaultKind.bit_of_place {i : Nat} {k : FaultKind} (hi : FaultKind.all[i]? = some k) : k.bit = i := by
  rcases Nat.lt_or_ge i 13 with hlt | hge
  · interval_cases i <;> cases hi <;> rfl
  · rw [List.getElem?_eq_none (by exact hge)] at hi
    cases hi

/-! ### The payload as written and as read -/

/-- A field past a part of the bytes is a field of the rest. -/
theorem field_append_right {l r : List Byte} {off w : Nat} (h : l.length ≤ off) :
    field (l ++ r) off w = field r (off - l.length) w := by
  unfold field
  rw [List.drop_append, List.drop_eq_nil_of_le h, List.nil_append]

/-- The bytes of a number stand where they are put. -/
theorem field_bytesBE {w n : Nat} (h : n < 256 ^ w) (r : List Byte) : field (bytesBE w n ++ r) 0 w = n := by
  unfold field
  rw [List.drop_zero, List.take_left' (bytesBE_length w n), beNat_bytesBE h]

theorem field_cons_zero (b : Byte) (r : List Byte) : field (b :: r) 0 1 = b.toNat := by
  rw [field_one]
  rfl

/-- The fields of 24 bytes laid out as a STATUS payload. -/
theorem statusLayout (b0 b1 b2 b18 b23 : Byte) {faults current lastDone ring ringVel tilt tiltVel digest id : Nat}
    (hf : faults < 256 ^ 2) (hc : current < 256 ^ 2) (hl : lastDone < 256 ^ 2) (hr : ring < 256 ^ 3)
    (hrv : ringVel < 256 ^ 2) (ht : tilt < 256 ^ 2) (htv : tiltVel < 256 ^ 2) (hd : digest < 256 ^ 2) (hi : id < 256 ^ 2)
    {p : List Byte} (hp : p = [b0, b1, b2] ++ bytesBE 2 faults ++ bytesBE 2 current ++ bytesBE 2 lastDone ++ bytesBE 3 ring
      ++ bytesBE 2 ringVel ++ bytesBE 2 tilt ++ bytesBE 2 tiltVel ++ [b18] ++ bytesBE 2 digest ++ bytesBE 2 id ++ [b23]) :
    p.length = 24 ∧ field p 0 1 = b0.toNat ∧ field p 1 1 = b1.toNat ∧ field p 2 1 = b2.toNat ∧ field p 3 2 = faults
      ∧ field p 5 2 = current ∧ field p 7 2 = lastDone ∧ field p 9 3 = ring ∧ field p 12 2 = ringVel ∧ field p 14 2 = tilt
      ∧ field p 16 2 = tiltVel ∧ field p 18 1 = b18.toNat ∧ field p 19 2 = digest ∧ field p 21 2 = id
      ∧ field p 23 1 = b23.toNat := by
  have past (l r : List Byte) {off w k : Nat} (h : off = l.length + k) : field (l ++ r) off w = field r k w := by
    rw [field_append_right (by omega), h, Nat.add_sub_cancel_left]
  simp only [List.append_assoc] at hp
  subst hp
  have h3 {off w : Nat} (r : List Byte) : field ([b0, b1, b2] ++ r) (off + 3) w = field r off w := past _ r (Nat.add_comm _ _)
  have h2 {off w n : Nat} (r : List Byte) : field (bytesBE 2 n ++ r) (off + 2) w = field r off w :=
    past _ r (by rw [bytesBE_length]; omega)
  have h3' {off w n : Nat} (r : List Byte) : field (bytesBE 3 n ++ r) (off + 3) w = field r off w :=
    past _ r (by rw [bytesBE_length]; omega)
  have h1 {off w : Nat} (b : Byte) (r : List Byte) : field ([b] ++ r) (off + 1) w = field r off w := past _ r (Nat.add_comm _ _)
  refine ⟨by simp [bytesBE_length], field_one _ _, field_one _ _, field_one _ _, ?_, ?_, ?_, ?_, ?_, ?_, ?_, ?_, ?_, ?_, ?_⟩
  · rw [h3, field_bytesBE hf]
  · rw [h3, h2, field_bytesBE hc]
  · rw [h3, h2, h2, field_bytesBE hl]
  · rw [h3, h2, h2, h2, field_bytesBE hr]
  · rw [h3, h2, h2, h2, h3', field_bytesBE hrv]
  · rw [h3, h2, h2, h2, h3', h2, field_bytesBE ht]
  · rw [h3, h2, h2, h2, h3', h2, h2, field_bytesBE htv]
  · rw [h3, h2, h2, h2, h3', h2, h2, h2]
    exact field_cons_zero b18 _
  · rw [h3, h2, h2, h2, h3', h2, h2, h2, h1, field_bytesBE hd]
  · rw [h3, h2, h2, h2, h3', h2, h2, h2, h1, h2, field_bytesBE hi]
  · rw [h3, h2, h2, h2, h3', h2, h2, h2, h1, h2, h2]
    exact field_cons_zero b23 _

/-- The flags byte holds its three flags (section 2.2). -/
theorem flags_reads (c : Content) : c.flags < 8 ∧ (if c.flags % 2 = 1 then RingMode.towed else .driven) = c.ringMode
    ∧ c.flags.testBit 1 = c.attention ∧ c.flags.testBit 2 = c.haltedRamping
    ∧ c.flags = (if c.ringMode = .towed then 1 else 0) + (if c.attention then 2 else 0) + (if c.haltedRamping then 4 else 0) := by
  unfold Content.flags
  cases c.ringMode <;> cases c.attention <;> cases c.haltedRamping <;> decide

/-- A payload is read field by field (R27). -/
theorem decodeStatus_eq {p : List Byte} {phase : Phase} {reason : CueReason} (hp : Phase.ofCode (field p 0 1) = some phase)
    (hr : CueReason.ofCode (field p 23 1) = some reason) : decodeStatus p =
      { phase, ringMode := if field p 1 1 % 2 = 1 then .towed else .driven
        attention := (field p 1 1).testBit 1, haltedRamping := (field p 1 1).testBit 2
        holds := BitVec.ofNat 5 (field p 2 1 % 32), faults := BitVec.ofNat 13 (field p 3 2 % 8192)
        current := BitVec.ofNat 16 (field p 5 2), lastDone := BitVec.ofNat 16 (field p 7 2)
        ringPos := signedOf 24 (field p 9 3), ringVel := signedOf 16 (field p 12 2), tilt := field p 14 2
        tiltVel := signedOf 16 (field p 16 2), demand := BitVec.ofNat 8 (field p 18 1)
        digest := BitVec.ofNat 16 (field p 19 2)
        refusal := { id := BitVec.ofNat 16 (field p 21 2), reason } } := by
  have hmode : (byteAt p 1).getLsbD 0 = decide (field p 1 1 % 2 = 1) := by
    rw [field_one]
    exact Nat.testBit_zero _
  have hholds : (byteAt p 2).setWidth 5 = BitVec.ofNat 5 (field p 2 1 % 32) := by
    rw [field_one]
    exact BitVec.eq_of_toNat_eq (by simp)
  have hfaults : BitVec.ofNat 13 (field p 3 2) = BitVec.ofNat 13 (field p 3 2 % 8192) :=
    BitVec.eq_of_toNat_eq (by simp)
  have hdemand : byteAt p 18 = BitVec.ofNat 8 (field p 18 1) := by rw [field_one, BitVec.ofNat_toNat, BitVec.setWidth_eq]
  unfold decodeStatus
  rw [hp, hr, hmode, hholds, hfaults, hdemand, field_one]
  simp only [decide_eq_true_eq]
  rfl

/-- Settles O25: the payload laid out by its fields, each read back. -/
theorem statusPayloadFields : Obligations.StatusPayloadFields := by
  unfold Obligations.StatusPayloadFields
  intro phases reasons causes kinds
  refine ⟨fun c hr1 hr2 hv1 hv2 ht1 ht2 htv1 htv2 => ?_, fun p phase reason _ hp hr => ?_⟩
  · intro p
    obtain ⟨ring, hring, hringlt, hringread⟩ := ringField_reads hr1 hr2
    obtain ⟨rv, hrv, hrvlt, hrvread⟩ := velocityField_reads hv1 hv2
    obtain ⟨tilt, htilt, htiltlt, htiltread⟩ := tiltField_reads ht1 ht2
    obtain ⟨tv, htv, htvlt, htvread⟩ := velocityField_reads htv1 htv2
    obtain ⟨hflags, hmode, hattention, hramping, hsum⟩ := flags_reads c
    have hphase : (BitVec.ofNat 8 c.phase.code).toNat = c.phase.code := by cases c.phase <;> rfl
    have hreason : (BitVec.ofNat 8 c.refusal.reason.code).toNat = c.refusal.reason.code := by cases c.refusal.reason <;> rfl
    have hflagsNat : (BitVec.ofNat 8 c.flags).toNat = c.flags := by
      rw [BitVec.toNat_ofNat]
      exact Nat.mod_eq_of_lt (by omega)
    have hholdslt : c.holds.toNat < 32 := c.holds.isLt
    have hholds : (c.holds.setWidth 8).toNat = c.holds.toNat := by
      rw [BitVec.toNat_setWidth]
      exact Nat.mod_eq_of_lt (by omega)
    have hfaultslt : c.faults.toNat < 8192 := c.faults.isLt
    have hp : p = [BitVec.ofNat 8 c.phase.code, BitVec.ofNat 8 c.flags, c.holds.setWidth 8]
        ++ bytesBE 2 c.faults.toNat ++ bytesBE 2 c.current.toNat ++ bytesBE 2 c.lastDone.toNat
        ++ bytesBE 3 ring ++ bytesBE 2 rv ++ bytesBE 2 tilt ++ bytesBE 2 tv
        ++ [c.demand] ++ bytesBE 2 c.digest.toNat ++ bytesBE 2 c.refusal.id.toNat
        ++ [BitVec.ofNat 8 c.refusal.reason.code] := by
      rw [← hring, ← hrv, ← htilt, ← htv]
      rfl
    obtain ⟨hlength, h0, h1, h2, h3, h5, h7, h9, h12, h14, h16, h18, h19, h21, h23⟩ :=
      statusLayout _ _ _ _ _ (by omega) c.current.isLt c.lastDone.isLt hringlt hrvlt htiltlt htvlt c.digest.isLt
        c.refusal.id.isLt hp
    rw [hphase] at h0
    rw [hflagsNat] at h1
    rw [hholds] at h2
    rw [hreason] at h23
    have hread := decodeStatus_eq (p := p) (phase := c.phase) (reason := c.refusal.reason)
      (by rw [h0, Phase.ofCode_code]) (by rw [h23, CueReason.ofCode_code])
    refine ⟨hlength, ?_, h1.trans hsum, by omega, fun i h hi => ?_, by omega, fun i k hi => ?_, h5, h7, ?_, ?_, ?_, ?_, h18,
      h19, h21, ?_, ?_⟩
    · rw [phase_ofCode, h0, Phase.ofCode_code]
    · rw [h2, ← HoldCause.bit_of_place hi]
      rfl
    · rw [h3, ← FaultKind.bit_of_place hi]
      rfl
    · rw [h9, hringread]
    · rw [h12, hrvread]
    · rw [h14, htiltread]
    · rw [h16, htvread]
    · rw [reason_ofCode, h23, CueReason.ofCode_code]
    · rw [hread, h1, h2, h3, h5, h7, h9, h12, h14, h16, h18, h19, h21, hmode, hattention, hramping, hringread, hrvread,
        htiltread, htvread, Nat.mod_eq_of_lt hholdslt, Nat.mod_eq_of_lt hfaultslt]
      simp only [BitVec.ofNat_toNat, BitVec.setWidth_eq]
  · exact decodeStatus_eq ((phase_ofCode _).symm.trans hp) ((reason_ofCode _).symm.trans hr)

end Sys2Proof.Machine
end

section
/-! The configuration read: the live copy formed from the bytes, and the judgement of the record (section 10.1, R169 to R171). -/

namespace Sys2Proof.Machine

/-! ### The substitution of a default (R169) -/

theorem byteAt_eq (l : List Byte) (i : Nat) : byteAt l i = l[i]?.getD 0 := rfl

/-- A field depends on its bytes alone. -/
theorem field_congr {l k : List Byte} {i j w : Nat} (hl : i + w ≤ l.length) (hk : j + w ≤ k.length)
    (h : ∀ x < w, byteAt l (i + x) = byteAt k (j + x)) : field l i w = field k j w := by
  unfold field
  congr 1
  refine List.ext_getElem (by simp; omega) fun x hx hy => ?_
  have hx' : x < w := by simp at hx; omega
  have := h x hx'
  rw [byteAt_eq, byteAt_eq, List.getElem?_eq_getElem (by omega), List.getElem?_eq_getElem (by omega)] at this
  simpa using this

/-- A stored field is erased when all its bytes are 0xFF (R169). -/
def Erased (l : List Byte) (off w : Nat) : Prop := ∀ i < w, byteAt l (off + i) = 0xFF

theorem erased_iff {l : List Byte} {off w : Nat} (h : off + w ≤ l.length) :
    ((l.drop off).take w).all (fun b => b == 0xFF) = true ↔ Erased l off w := by
  rw [List.all_eq_true]
  refine ⟨fun hall i hi => ?_, fun he b hb => ?_⟩
  · have hi' : i < ((l.drop off).take w).length := by simp; omega
    have := hall _ (List.getElem_mem hi')
    rw [byteAt_eq, List.getElem?_eq_getElem (by omega)]
    simpa using this
  · obtain ⟨i, hi, rfl⟩ := List.getElem_of_mem hb
    simp only [List.length_take, List.length_drop] at hi
    have := he i (by omega)
    rw [byteAt_eq, List.getElem?_eq_getElem (by omega)] at this
    simpa using this

section
variable {l : List Byte} {f : Nat × Nat × Nat}

/-- An erased field takes the bytes of its default, and every other byte is as stored (R169). -/
theorem substituteField_length (h : f.1 + f.2.1 ≤ l.length) : (substituteField l f).length = l.length := by
  unfold substituteField
  split
  · simp [bytesBE_length]
    omega
  · rfl

theorem substituteField_outside (h : f.1 + f.2.1 ≤ l.length) {i : Nat} (hi : i < f.1 ∨ f.1 + f.2.1 ≤ i) :
    byteAt (substituteField l f) i = byteAt l i := by
  unfold substituteField
  split
  · rw [byteAt_eq, byteAt_eq]
    rcases hi with hi | hi
    · rw [List.append_assoc, List.getElem?_append_left (by simp; omega), List.getElem?_take_of_lt hi]
    · rw [List.getElem?_append_right (by simp [bytesBE_length]; omega), List.getElem?_drop]
      congr 2
      simp [bytesBE_length]
      omega
  · rfl

theorem substituteField_erased (h : f.1 + f.2.1 ≤ l.length) (he : Erased l f.1 f.2.1) {i : Nat} (hi : i < f.2.1) :
    byteAt (substituteField l f) (f.1 + i) = byteAt (bytesBE f.2.1 f.2.2) i := by
  have htake : (l.take f.1).length = f.1 := by simp; omega
  unfold substituteField
  rw [if_pos ((erased_iff h).2 he), byteAt_eq, byteAt_eq, List.append_assoc, List.getElem?_append_right (by omega), htake,
    Nat.add_sub_cancel_left, List.getElem?_append_left (by rw [bytesBE_length]; exact hi)]

theorem substituteField_stored (h : f.1 + f.2.1 ≤ l.length) (he : ¬Erased l f.1 f.2.1) : substituteField l f = l := by
  unfold substituteField
  rw [if_neg (mt (erased_iff h).1 he)]

end

/-- What the substitution makes of a field depends on the field's bytes alone. -/
theorem substituteField_congr {l k : List Byte} {f : Nat × Nat × Nat} (hl : f.1 + f.2.1 ≤ l.length)
    (hk : f.1 + f.2.1 ≤ k.length) (h : ∀ i < f.2.1, byteAt l (f.1 + i) = byteAt k (f.1 + i)) {i : Nat} (hi : i < f.2.1) :
    byteAt (substituteField l f) (f.1 + i) = byteAt (substituteField k f) (f.1 + i) := by
  have hsame : Erased l f.1 f.2.1 ↔ Erased k f.1 f.2.1 := forall₂_congr fun i hi => by rw [h i hi]
  by_cases he : Erased l f.1 f.2.1
  · rw [substituteField_erased hl he hi, substituteField_erased hk (hsame.1 he) hi]
  · rw [substituteField_stored hl he, substituteField_stored hk (mt hsame.2 he), h i hi]

/-- Fields apart from each other take their defaults each on its own. -/
theorem foldl_substituteField {fs : List (Nat × Nat × Nat)} (hfs : fs.Pairwise (fun f g => f.1 + f.2.1 ≤ g.1))
    (l : List Byte) (hl : ∀ f ∈ fs, f.1 + f.2.1 ≤ l.length) :
    (fs.foldl substituteField l).length = l.length
      ∧ (∀ i, (∀ f ∈ fs, i < f.1 ∨ f.1 + f.2.1 ≤ i) → byteAt (fs.foldl substituteField l) i = byteAt l i)
      ∧ ∀ f ∈ fs, ∀ i < f.2.1, byteAt (fs.foldl substituteField l) (f.1 + i) = byteAt (substituteField l f) (f.1 + i) := by
  induction fs generalizing l with
  | nil => exact ⟨rfl, fun _ _ => rfl, nofun⟩
  | cons f fs ih =>
    obtain ⟨hapart, hrest⟩ := List.pairwise_cons.1 hfs
    have hf := hl f (.head _)
    have hlength := substituteField_length hf
    have hl' : ∀ g ∈ fs, g.1 + g.2.1 ≤ (substituteField l f).length := fun g hg => hlength ▸ hl g (.tail _ hg)
    obtain ⟨hlen, hout, hin⟩ := ih hrest (substituteField l f) hl'
    refine ⟨hlen.trans hlength, fun i hi => ?_, fun g hg i hi => ?_⟩
    · exact (hout i fun g hg => hi g (.tail _ hg)).trans (substituteField_outside hf (hi f (.head _)))
    · rcases List.mem_cons.1 hg with rfl | hg
      · exact hout _ fun k hk => .inl (by have := hapart k hk; omega)
      · refine (hin g hg i hi).trans (substituteField_congr (hl' g hg) (hl g (.tail _ hg)) (fun j hj => ?_) hi)
        exact substituteField_outside hf (.inr (by have := hapart g hg; omega))

/-! ### The live copy (R169) -/

theorem defaultFields_of_recordTable : recordTable.filterMap (fun t => t.2.2.2.2.map fun d => (t.1, t.2.1, d)) = defaultFields := by
  decide

theorem mem_defaultFields {off w d : Nat} : (off, w, d) ∈ defaultFields ↔ ∃ low high, (off, w, low, high, some d) ∈ recordTable := by
  rw [← defaultFields_of_recordTable, List.mem_filterMap]
  constructor
  · rintro ⟨⟨o, x, low, high, e⟩, ht, he⟩
    obtain ⟨d', rfl, hd⟩ := Option.map_eq_some_iff.1 he
    cases hd
    exact ⟨low, high, ht⟩
  · rintro ⟨low, high, ht⟩
    exact ⟨_, ht, rfl⟩

/-- A field with a default lies in the record, and its default fits it. -/
theorem defaultField_fits {off w d : Nat} (h : (off, w, d) ∈ defaultFields) : off + w ≤ 148 ∧ d < 256 ^ w := by
  have hall : ∀ f ∈ defaultFields, f.1 + f.2.1 ≤ 148 ∧ f.2.2 < 256 ^ f.2.1 := by decide
  exact hall _ h

section
variable {raw : List Byte} (hraw : raw.length = 148)
include hraw

/-- The live copy takes its defaults field by field (R169). -/
theorem formLiveCopy_fields : (formLiveCopy raw).length = 148
    ∧ (∀ i, (∀ f ∈ defaultFields, i < f.1 ∨ f.1 + f.2.1 ≤ i) → byteAt (formLiveCopy raw) i = byteAt raw i)
    ∧ ∀ f ∈ defaultFields, ∀ i < f.2.1,
        byteAt (formLiveCopy raw) (f.1 + i) = byteAt (substituteField raw f) (f.1 + i) := by
  obtain ⟨hlength, hout, hin⟩ := foldl_substituteField (fs := defaultFields) (by decide) raw
    (by rw [hraw]; decide)
  exact ⟨hlength.trans hraw, hout, hin⟩

/-- An erased field reads as its default. -/
theorem formLiveCopy_erased {off w d : Nat} (hf : (off, w, d) ∈ defaultFields) (he : Erased raw off w) :
    field (formLiveCopy raw) off w = d := by
  obtain ⟨hlength, -, hin⟩ := formLiveCopy_fields hraw
  obtain ⟨hfits, hd⟩ := defaultField_fits hf
  have hbytes : field (formLiveCopy raw) off w = field (bytesBE w d) 0 w := by
    refine field_congr (by omega) (by rw [bytesBE_length]; omega) fun i hi => ?_
    rw [Nat.zero_add]
    exact (hin _ hf i hi).trans (substituteField_erased (f := (off, w, d)) (by show off + w ≤ _; omega) he hi)
  rw [hbytes]
  have := field_bytesBE hd []
  rwa [List.append_nil] at this

/-- A field with a stored byte stands as stored. -/
theorem formLiveCopy_stored {off w d : Nat} (hf : (off, w, d) ∈ defaultFields) (he : ¬Erased raw off w) {i : Nat} (hi : i < w) :
    byteAt (formLiveCopy raw) (off + i) = byteAt raw (off + i) := by
  obtain ⟨-, -, hin⟩ := formLiveCopy_fields hraw
  obtain ⟨hfits, -⟩ := defaultField_fits hf
  rw [hin _ hf i hi, substituteField_stored (by show off + w ≤ _; omega) he]

end

/-! ### The judgement (R170) -/

theorem crcGood_iff (raw : List Byte) : crcGood raw = true ↔ raw.length = 148
    ∧ (crc16 (raw.take 96)).toNat = field raw 96 2 ∧ (crc16 ((raw.drop 98).take 48)).toNat = field raw 146 2 := by
  unfold crcGood
  simp [and_assoc]

theorem rangeFields_of_recordTable : recordTable.map (fun t => (t.1, t.2.1, t.2.2.1, t.2.2.2.1)) = rangeFields := by decide

/-- Two bits of the fitted mask stand within the 24 stations where the mask lies within the ring (R170). -/
theorem two_fitted_iff {l : List Byte} (h : Live.fittedMask l < 2 ^ 24) :
    2 ≤ ((List.range 24).filter (Live.isFitted l)).length ↔
      ∃ i j, i < j ∧ (Live.fittedMask l).testBit i = true ∧ (Live.fittedMask l).testBit j = true := by
  have hmem (i : Nat) : i ∈ (List.range 24).filter (Live.isFitted l) ↔ (Live.fittedMask l).testBit i = true := by
    rw [List.mem_filter, List.mem_range]
    refine and_iff_right_of_imp fun hi => Nat.lt_of_not_le fun hle => ?_
    have := Nat.testBit_lt_two_pow (h.trans_le (Nat.pow_le_pow_right (by decide) hle))
    exact absurd (hi.symm.trans this) (by decide)
  have hnodup : ((List.range 24).filter (Live.isFitted l)).Nodup := List.nodup_range.filter _
  rw [← List.toFinset_card_of_nodup hnodup]
  show 1 < _ ↔ _
  rw [Finset.one_lt_card_iff]
  simp only [List.mem_toFinset, hmem]
  refine ⟨fun ⟨a, b, ha, hb, hne⟩ => ?_, fun ⟨i, j, hlt, hi, hj⟩ => ⟨i, j, hi, hj, by omega⟩⟩
  rcases Nat.lt_or_gt_of_ne hne with h | h
  · exact ⟨a, b, h, ha, hb⟩
  · exact ⟨b, a, h, hb, ha⟩

/-- The ranges of the record (R170, check 2), field by field. -/
theorem fieldsGood_iff (l : List Byte) : fieldsGood l = true ↔
    (∀ offset width low high default, (offset, width, low, high, default) ∈ recordTable →
        low ≤ field l offset width ∧ field l offset width ≤ high)
      ∧ -360000 ≤ Live.homeOffset l ∧ Live.homeOffset l ≤ 360000
      ∧ (∀ c : Nat, c < 8 → field l (13 + c) 1 < 8 ∧ field l (80 + 2 * c) 2 ≤ 4095
          ∧ signedOf 16 (field l (100 + 6 * c) 2) ≤ signedOf 16 (field l (102 + 6 * c) 2))
      ∧ (∀ i, Live.ringSize l ≤ i → (Live.fittedMask l).testBit i = false)
      ∧ (∃ i j, i < j ∧ (Live.fittedMask l).testBit i = true ∧ (Live.fittedMask l).testBit j = true)
      ∧ field l 28 1 < field l 29 1
      ∧ -180000 ≤ Live.ringMin l ∧ Live.ringMin l < Live.ringMax l ∧ Live.ringMax l ≤ 180000
      ∧ field l 50 3 ≠ 0xFFFFFF ∧ field l 53 3 ≠ 0xFFFFFF := by
  have htable : (rangeFields.all fun f => decide (f.2.2.1 ≤ field l f.1 f.2.1) && decide (field l f.1 f.2.1 ≤ f.2.2.2)) = true ↔
      ∀ offset width low high default, (offset, width, low, high, default) ∈ recordTable →
        low ≤ field l offset width ∧ field l offset width ≤ high := by
    rw [← rangeFields_of_recordTable, List.all_eq_true]
    simp only [List.mem_map, Bool.and_eq_true, decide_eq_true_eq]
    refine ⟨fun h offset width low high default hmem => h _ ⟨_, hmem, rfl⟩, ?_⟩
    rintro h _ ⟨⟨offset, width, low, high, default⟩, hmem, rfl⟩
    exact h _ _ _ _ _ hmem
  have hchannels : (channels.all fun c => decide ((byteAt l (13 + c)).toNat < 8) && decide (Live.channelGain l c ≤ 4095)
        && decide (Live.channelLo l c ≤ Live.channelHi l c)) = true ↔
      ∀ c : Nat, c < 8 → field l (13 + c) 1 < 8 ∧ field l (80 + 2 * c) 2 ≤ 4095
        ∧ signedOf 16 (field l (100 + 6 * c) 2) ≤ signedOf 16 (field l (102 + 6 * c) 2) := by
    rw [List.all_eq_true]
    simp only [Bool.and_eq_true, decide_eq_true_eq, field_one, and_assoc]
    exact ⟨fun h c hc => h ⟨c, hc⟩ (mem_channels _), fun h c _ => h c c.isLt⟩
  have hmask : Live.fittedMask l < 2 ^ Live.ringSize l ↔
      ∀ i, Live.ringSize l ≤ i → (Live.fittedMask l).testBit i = false :=
    ⟨fun h i hi => Nat.testBit_lt_two_pow (h.trans_le (Nat.pow_le_pow_right (by decide) hi)), Nat.lt_pow_two_of_testBit _⟩
  unfold fieldsGood
  simp only [Bool.and_eq_true]
  rw [htable, hchannels]
  simp only [decide_eq_true_eq, hmask]
  constructor
  · rintro ⟨⟨⟨⟨⟨⟨⟨⟨⟨⟨⟨⟨hr, hh1⟩, hh2⟩, hc⟩, hm⟩, htwo⟩, hage⟩, hmin1⟩, hmin2⟩, hmax1⟩, hmax2⟩, hlt⟩, herased⟩
    have hsize : Live.ringSize l ≤ 24 := (hr 21 1 2 24 none (by decide)).2
    have hsmall : Live.fittedMask l < 2 ^ 24 := (hmask.2 hm).trans_le (Nat.pow_le_pow_right (by decide) hsize)
    exact ⟨hr, hh1, hh2, hc, hm, (two_fitted_iff hsmall).1 htwo, hage, hmin1, hlt, hmax2, by simpa using herased⟩
  · rintro ⟨hr, hh1, hh2, hc, hm, htwo, hage, hmin1, hlt, hmax2, herased⟩
    have hsize : Live.ringSize l ≤ 24 := (hr 21 1 2 24 none (by decide)).2
    have hsmall : Live.fittedMask l < 2 ^ 24 := (hmask.2 hm).trans_le (Nat.pow_le_pow_right (by decide) hsize)
    exact ⟨⟨⟨⟨⟨⟨⟨⟨⟨⟨⟨⟨hr, hh1⟩, hh2⟩, hc⟩, hm⟩, (two_fitted_iff hsmall).2 htwo⟩, hage⟩, hmin1⟩, by omega⟩, by omega⟩, hmax2⟩, hlt⟩,
      by simpa using herased⟩

/-- TOW on a channel other than 1 (R170, check 4). -/
theorem towElsewhere_iff (l : List Byte) :
    (channels.any fun c => decide (c ≠ 1) && Live.channelAction l c == actionTow) = false ↔
      ∀ c : Nat, c < 8 → c ≠ 1 → field l (13 + c) 1 / 2 % 4 ≠ 3 := by
  rw [List.any_eq_false]
  simp only [Bool.and_eq_true, decide_eq_true_eq, beq_iff_eq, not_and, field_one]
  refine ⟨fun h c hc h1 => h ⟨c, hc⟩ (mem_channels _) (fun he => h1 (congrArg Fin.val he)), fun h c _ h1 => h c c.isLt fun he => ?_⟩
  exact h1 (Fin.ext he)

theorem judgeConfig_eq (raw : List Byte) (straps : BitVec 5) : judgeConfig raw straps =
    if crcGood raw = false then .crc
    else if fieldsGood (formLiveCopy raw) = false then .field
    else if Live.ringSize (formLiveCopy raw) ≤ straps.toNat ∨ Live.isFitted (formLiveCopy raw) straps.toNat = false then .station
    else if channels.any (fun c => decide (c ≠ 1) && Live.channelAction (formLiveCopy raw) c == actionTow) then .channel
    else .valid := by
  unfold judgeConfig
  dsimp only

open Node

/-- Settles O8: the read's start, the live copy field by field, and the checks in their order. -/
theorem configReadFormsAndJudges : Obligations.ConfigReadFormsAndJudges := by
  refine ⟨fun s ⟨hlisten, hevent, hcalm⟩ hphase hread => ?_, fun raw hraw => ?_, fun raw straps => ?_⟩
  · have heff : configReadStart s.node = { s.node with cfg := s.node.cfg.beginRead } := if_pos ⟨hphase, hread⟩
    refine takeStep_calm hlisten heff ?_ hevent
    have hserved : s.node.inService = false := by unfold inService; rw [hphase]; rfl
    refine calm_of_brakes (brakesFollow_of_calm (n := s.node) hcalm) ?_ ?_
    · exact (wantedHolds_outOfService hserved).trans
        ((wantedHolds_outOfService hserved).symm.trans (holds_of_calm hcalm).symm)
    · unfold phaseConsequence
      rw [show ({ s.node with cfg := s.node.cfg.beginRead } : Node).cue.phase = .starting from hphase]
  · obtain ⟨hlength, hout, -⟩ := formLiveCopy_fields hraw
    refine ⟨hlength, fun off w low high d hmem => ?_, fun i hi => ?_⟩
    · have hf := mem_defaultFields.2 ⟨low, high, hmem⟩
      refine ⟨fun he => formLiveCopy_erased hraw hf he, fun ⟨j, hj, hne⟩ i hi => ?_⟩
      exact formLiveCopy_stored hraw hf (fun he => hne (he j hj)) hi
    · refine hout i fun f hf => ?_
      obtain ⟨low, high, hmem⟩ := mem_defaultFields.1 hf
      exact hi _ _ _ _ _ hmem
  · intro live signed size mask crcs ranges station channels
    have hcrcs : crcGood raw = true ↔ crcs := crcGood_iff raw
    have hranges : fieldsGood live = true ↔ ranges := fieldsGood_iff live
    have hstation : (Live.ringSize live ≤ straps.toNat ∨ Live.isFitted live straps.toNat = false) ↔ ¬station := by
      rw [← Bool.not_eq_true, ← not_lt, ← not_and_or]
      rfl
    have hchannels : (Machine.channels.any fun c => decide (c ≠ 1) && Live.channelAction live c == actionTow) = false ↔
        channels := towElsewhere_iff live
    refine ⟨fun h => ?_, fun h1 h2 => ?_, fun h1 h2 h3 => ?_, fun h1 h2 h3 h4 => ?_, fun h1 h2 h3 h4 => ?_⟩ <;>
      rw [judgeConfig_eq]
    · exact if_pos (by simpa using mt hcrcs.1 h)
    all_goals rw [if_neg (by rw [hcrcs.2 h1]; decide)]
    · exact if_pos (by simpa using mt hranges.1 h2)
    all_goals rw [if_neg (by rw [hranges.2 h2]; decide)]
    · exact if_pos (hstation.2 h3)
    all_goals rw [if_neg (fun h => hstation.1 h h3)]
    · exact if_pos (by simpa using mt hchannels.1 h4)
    · exact if_neg (by rw [hchannels.2 h4]; decide)

end Sys2Proof.Machine
end

section
/-! What the completed configuration read starts: CONFIG_FAULT, IDLE or HALTED (R53, R128, R173, R174). -/

namespace Sys2Proof.Machine

namespace Node

/-! ### Brakes and hold causes alone -/

/-- From `a` to `n` nothing but brakes, hold causes and what marks a status event has changed. -/
structure Quiet (a n : Node) : Prop where
  phase : n.cue.phase = a.cue.phase
  queue : n.cue.queue = a.cue.queue
  permit : n.cue.permit = a.cue.permit
  rx : n.rx = a.rx
  tx : n.tx = a.tx
  peers : n.peers = a.peers
  ring : n.ring = a.ring
  tilt : n.tilt = a.tilt
  supplyScale : n.supplyScale = a.supplyScale
  ringMode : n.ringMode = a.ringMode
  faults : n.faults = a.faults
  inputs : n.inputs = a.inputs
  monitor : n.monitor = a.monitor
  cfg : n.cfg = a.cfg

theorem Quiet.refl (n : Node) : Quiet n n := ⟨rfl, rfl, rfl, rfl, rfl, rfl, rfl, rfl, rfl, rfl, rfl, rfl, rfl, rfl⟩

theorem quiet_changeBrake {a n : Node} (h : Quiet a n) (x : Axis) : Quiet a (changeBrake x n) :=
  ⟨by simp [h.phase], by simp [h.queue], by simp [h.permit], by simp [h.rx], by simp [h.tx], by simp [h.peers],
    by simp [h.ring], by simp [h.tilt], by simp [h.supplyScale], by simp [h.ringMode], by simp [h.faults],
    by simp [h.inputs], by simp [h.monitor], by simp [h.cfg]⟩

theorem quiet_setHolds {a n : Node} (h : Quiet a n) (x : HoldSet) : Quiet a (setHolds x n) := by
  obtain ⟨b, e⟩ := setHolds_eq x n
  rw [e]
  exact ⟨h.phase, h.queue, h.permit, h.rx, h.tx, h.peers, h.ring, h.tilt, h.supplyScale, h.ringMode, h.faults, h.inputs,
    h.monitor, h.cfg⟩

/-- Out of service only brakes and hold causes follow of themselves. -/
theorem settled_quiet_outOfService {tick : Bool} {a : Node} (hs : a.inService = false) : Quiet a (settled tick a) := by
  refine settled_quiet (P := Quiet a) (fun n h => ?_) (fun x n h => quiet_changeBrake h x) (fun x n h => quiet_setHolds h x) a
    (.refl a)
  have hserved : n.cue.phase.inService = false := by rw [h.phase]; exact hs
  unfold phaseConsequence
  cases hp : n.cue.phase <;> rw [hp] at hserved <;> first | rfl | cases hserved

/-- The STATUS a build out of service shows bears tag 0 (R53). -/
theorem built_outOfService {n : Node} (hs : n.inService = false) : build n = n.built := by
  refine build_of_rest ?_
  have hm : n.cue.phase.inMotion = false := by
    unfold inService at hs
    cases hp : n.cue.phase <;> rw [hp] at hs <;> first | rfl | cases hs
  rw [hm, Bool.false_and]

/-- Out of service a status event with the allowance set brings one build, and brakes and hold causes around it (R50). -/
theorem finish_outOfService {m : Node} (hs : m.inService = false) (he : m.statusEvent = true)
    (ha : m.peers.allowance = true) : ∃ q r e p, Quiet m q ∧ Quiet ({ q with statusEvent := false } : Node).built r
      ∧ finish false m = { r with statusEvent := e, peers := { r.peers with pendingBuild := p } } := by
  obtain ⟨k, hk, hfin⟩ := finish_builds he ha
  have hq : Quiet m (settled false m) := settled_quiet_outOfService hs
  have hserved : ({ settled false m with statusEvent := false } : Node).inService = false := by
    unfold inService
    rw [show ({ settled false m with statusEvent := false } : Node).cue.phase = m.cue.phase from hq.phase]
    exact hs
  rw [built_outOfService hserved] at hk
  have hbuilt : k.inService = false := by
    rw [hk]
    unfold inService at hserved ⊢
    simpa [built] using hserved
  have hr : Quiet k (settled false k) := settled_quiet_outOfService hbuilt
  refine ⟨settled false m, settled false k, (finish false m).statusEvent, (finish false m).peers.pendingBuild, hq, hk ▸ hr, ?_⟩
  rcases hfin with h | h <;> rw [h]
  rw [hr.peers]

/-- CONFIG_FAULT as an invalid read gives it (R53, R173). -/
theorem startUnconfigured_eq {n : Node} : ∃ x, startUnconfigured n = { n with
    tx := { n.tx with random := seedFor 0 n.station }
    peers := { n.peers with entries := [Entry.blankOwn n.station], map := { closed := false, fitted := [] } }
    cue := { n.cue with phase := .configFault, armRunning := false }
    inputs := { n.inputs with attention := x }
    cfg := { n.cfg with startDigest := 0, lastDigest := 0, recheck := none }
    statusEvent := true } := ⟨_, rfl⟩

end Node

/-- The fields of a header as a wagon writes it (R25). -/
theorem header_reads (kind len dest src station : Nat) (seq : BitVec 8) (payload : List Byte) (hk : kind < 16)
    (hd : dest < 4096) (hs : src < 4096) (ht : station < 256) :
    let f := header kind len dest src station seq ++ payload
    frameKind f = kind ∧ frameDest f = dest ∧ frameSource f = src ∧ frameStation f = station ∧ frameSeq f = seq := by
  intro f
  have hdest : field f 2 2 = dest := by
    have := (field_append_right (l := [BitVec.ofNat 8 (kind * 16 + 1), BitVec.ofNat 8 len]) (off := 2) (w := 2) (le_refl 2)).trans
      (field_bytesBE (w := 2) (n := dest) (by omega) (bytesBE 2 src ++ ([BitVec.ofNat 8 station, seq] ++ payload)))
    simpa [f, header] using this
  have hsrc : field f 4 2 = src := by
    have := (field_append_right (l := [BitVec.ofNat 8 (kind * 16 + 1), BitVec.ofNat 8 len] ++ bytesBE 2 dest) (off := 4) (w := 2)
      (by simp [bytesBE_length])).trans
      (field_bytesBE (w := 2) (n := src) (by omega) ([BitVec.ofNat 8 station, seq] ++ payload))
    simpa [f, header, bytesBE_length] using this
  have hkind : byteAt f 0 = BitVec.ofNat 8 (kind * 16 + 1) := rfl
  have hstation : byteAt f 6 = BitVec.ofNat 8 station := rfl
  have hseq : byteAt f 7 = seq := rfl
  refine ⟨?_, ?_, ?_, ?_, hseq⟩
  · unfold frameKind
    rw [hkind, BitVec.toNat_ofNat]
    omega
  · unfold frameDest frameDestWord
    rw [hdest]
    exact Nat.mod_eq_of_lt hd
  · unfold frameSource frameSourceWord
    rw [hsrc]
    exact Nat.mod_eq_of_lt hs
  · unfold frameStation
    rw [hstation, BitVec.toNat_ofNat]
    exact Nat.mod_eq_of_lt ht

/-- The seed of a wagon without a tag (R9). -/
theorem Node.seedFor_zero : ∀ straps : BitVec 5,
    seedFor 0 straps.toNat = if straps = 0 then 1 else straps.setWidth 16 := by decide

open Node

/-- Settles O9: the step writes CONFIG_FAULT, and its first STATUS follows under tag 0. -/
theorem invalidReadGivesConfigFault : Obligations.InvalidReadGivesConfigFault := by
  intro bytes s hlisten hphase hread hallow hempty hjudge
  set m := startUnconfigured (readIn bytes s.node)
  have heff : configReadComplete bytes s.node = m := by
    rw [configReadComplete_eq ⟨hphase, hread⟩, if_neg hjudge]
  obtain ⟨x, hx⟩ := startUnconfigured_eq (n := readIn bytes s.node)
  have hm : m = _ := hx
  have hserved : m.inService = false := by rw [hm]; rfl
  obtain ⟨q, r, e, p, hq, hr, hfin⟩ := finish_outOfService (m := m) hserved (by rw [hm]) (by rw [hm]; exact hallow)
  set k : Node := ({ q with statusEvent := false } : Node).built with hk
  have hcue : k.cue = q.cue := by simp [hk, Node.built]
  have hcfg : r.cfg = m.cfg := hr.cfg.trans ((by simp [hk, Node.built] : k.cfg = q.cfg).trans hq.cfg)
  have hphase' : r.cue.phase = .configFault := by rw [hr.phase, hcue, hq.phase, hm]
  have hstation : ({ q with statusEvent := false } : Node).station = s.node.cfg.straps.toNat := by
    show q.cfg.straps.toNat = _
    rw [hq.cfg, hm]
    rfl
  have hgroup : ({ q with statusEvent := false } : Node).groupTag = 0 := by
    unfold groupTag inService
    rw [show ({ q with statusEvent := false } : Node).cue.phase = m.cue.phase from hq.phase, hm]
    rfl
  have hseq : ({ q with statusEvent := false } : Node).peers.ownSeq = s.node.peers.ownSeq := by
    show q.peers.ownSeq = _
    rw [hq.peers, hm]
    rfl
  have hstatus : r.tx.status = Slot.fresh (header 1 24 0 0 s.node.cfg.straps.toNat (s.node.peers.ownSeq + 1)
      ++ statusPayload ({ q with statusEvent := false } : Node).ownContent) := by
    rw [hr.tx]
    show (fillStatus (statusFrame { q with statusEvent := false }) { q with statusEvent := false }).tx.status = _
    rw [fillStatus_empty _ (by show q.tx.status.state = _; rw [hq.tx, hm]; exact hempty)]
    unfold statusFrame
    rw [hgroup, hstation, hseq]
  have hentries : r.peers.entries.map (·.station) = [s.node.cfg.straps.toNat] := by
    rw [hr.peers]
    show (q.peers.entries.map _).map _ = _
    rw [show q.peers.entries = [Entry.blankOwn s.node.cfg.straps.toNat] by rw [hq.peers, hm]; rfl]
    show [Entry.station (if _ then _ else _)] = _
    split
    · exact congrArg (fun x => [x]) hstation
    · rfl
  have hrandom : r.tx.random = m.tx.random := by
    rw [hr.tx, ← hq.tx]
    exact fillStatus_tx_random _ _
  obtain ⟨hkind, hdest, hsource, hfrom, hframe⟩ := header_reads 1 24 0 0 s.node.cfg.straps.toNat (s.node.peers.ownSeq + 1)
    (statusPayload ({ q with statusEvent := false } : Node).ownContent) (by decide) (by decide) (by decide)
    (lt_trans s.node.cfg.straps.isLt (by decide))
  have hdone : (finish false m).cue.phase = .configFault := by rw [hfin]; exact hphase'
  refine ⟨finish false m, (takeStep_listening hlisten).trans (by rw [heff]), hdone, ?_⟩
  have hreleased (a : Axis) : ((finish false m).axisDrive a).released = false :=
    released_of_still (finish_done false m) (by rw [hdone]; rfl) (by rw [hdone]; decide) a
  rw [hfin] at hreleased ⊢
  have hwritten {α : Type} (f : Cfg → α) : f r.cfg = f m.cfg := congrArg f hcfg
  refine ⟨(hwritten Cfg.status).trans (by rw [hm]; rfl), (hwritten Cfg.raw).trans (by rw [hm]; rfl),
    (hwritten Cfg.read).trans (by rw [hm]; rfl), (hwritten Cfg.mcsLow).trans (by rw [hm]; rfl),
    (hwritten Cfg.startDigest).trans (by rw [hm]), (hwritten Cfg.lastDigest).trans (by rw [hm]),
    (hwritten Cfg.recheck).trans (by rw [hm]), ?_, hentries, hrandom.trans ?_, ?_, ?_, ?_, ?_, ?_, ?_, ?_, ?_, ?_, hreleased,
    ?_, ?_, ?_, ?_, ?_⟩
  · unfold groupTag inService
    rw [show ({ r with statusEvent := e, peers := { r.peers with pendingBuild := p } } : Node).cue.phase = _ from hphase']
    rfl
  · rw [hm]
    exact seedFor_zero _
  · show r.tx.status.state = _
    rw [hstatus]
    rfl
  · show frameKind r.tx.status.content = _
    rw [hstatus]
    exact hkind
  · show frameDest r.tx.status.content = _
    rw [hstatus]
    exact hdest
  · show frameSource r.tx.status.content = _
    rw [hstatus]
    exact hsource
  · show frameStation r.tx.status.content = _
    rw [hstatus]
    exact hfrom
  · show frameSeq r.tx.status.content = _
    rw [hstatus]
    exact hframe
  · show r.peers.ownSeq = _
    rw [hr.peers]
    exact congrArg (· + 1) hseq
  · show r.peers.allowance = _
    rw [hr.peers]
    rfl
  · exact hr.faults.trans ((by simp [hk, Node.built] : k.faults = q.faults).trans (hq.faults.trans (by rw [hm]; rfl)))
  · exact hr.rx.trans ((by simp [hk, Node.built] : k.rx = q.rx).trans (hq.rx.trans (by rw [hm]; rfl)))
  · exact hr.ring.trans ((by simp [hk, Node.built] : k.ring = q.ring).trans (hq.ring.trans (by rw [hm]; rfl)))
  · exact hr.tilt.trans ((by simp [hk, Node.built] : k.tilt = q.tilt).trans (hq.tilt.trans (by rw [hm]; rfl)))
  · exact hr.queue.trans ((by rw [hcue] : k.cue.queue = q.cue.queue).trans (hq.queue.trans (by rw [hm]; rfl)))
  · exact hr.monitor.trans ((by simp [hk, Node.built] : k.monitor = q.monitor).trans (hq.monitor.trans (by rw [hm]; rfl)))

end Sys2Proof.Machine
end

section
/-! A VALID read starts the wagon: IDLE, or HALTED with the faults kept (R128, R174). -/

namespace Sys2Proof.Machine

namespace Node

/-- A brake as its supervision begins (R148). -/
def supervised (n : Node) (a : Axis) : AxisDrive :=
  if n.brakeAgrees a then { n.axisDrive a with supervision := .agreed }
  else { n.axisDrive a with supervision := .changing, brakeTimer := Live.brakeTicks n.live }

theorem configured_eq (n : Node) : ∃ x, n.configured = { n with
    tx := { n.tx with random := seedFor (Live.groupTag n.live) n.station }
    peers := { n.peers with
      map := ringMapOf n.live
      entries := (ringMapOf n.live).fitted.map (fun s => if s = n.station then Entry.blankOwn s else Entry.blankPeer s) }
    cue := { n.cue with phase := .idle, armRunning := false, ringRelease := none, tiltRelease := none }
    ring := n.startingPlanner .ring, tilt := n.startingPlanner .tilt
    drive := { n.drive with ring := n.supervised .ring, tilt := n.supervised .tilt }
    inputs := { n.inputs with attention := x }
    monitor := { n.monitor with turn := channels.find? (Live.channelEnabled n.live) }
    cfg := { n.cfg with startDigest := digestOf n.live, lastDigest := digestOf n.live, recheck := some 256 }
    statusEvent := true } := ⟨_, rfl⟩

/-! ### IDLE without a head -/

/-- Without a head nothing follows in IDLE (R72). -/
theorem phaseConsequence_idle_empty {n : Node} (hp : n.cue.phase = .idle) (hq : n.cue.queue = []) (tick : Bool) :
    n.phaseConsequence tick = none := by
  unfold phaseConsequence headCue
  rw [hp, hq]
  rfl

theorem peerSilent_of_heard {n : Node} (h : ∀ e ∈ n.peers.entries, e.freshness ≠ .stale ∧ e.freshness ≠ .lost) :
    n.peerSilent = false := by
  unfold peerSilent
  rw [List.any_eq_false]
  intro e he
  obtain ⟨hs, hl⟩ := h e he
  simp [hs, hl]

/-- A build puts the own entry in place and keeps the others (R51). -/
theorem mem_built {n : Node} {e : Entry} (h : e ∈ n.built.peers.entries) :
    e.station = n.station ∧ e.freshness = .fresh ∨ e.station ≠ n.station ∧ e ∈ n.peers.entries := by
  obtain ⟨x, hx, rfl⟩ := List.mem_map.1 h
  split
  next => exact .inl ⟨rfl, rfl⟩
  next hne => exact .inr ⟨by simpa using hne, hx⟩

theorem built_stations (n : Node) : n.built.peers.entries.map (·.station) = n.peers.entries.map (·.station) := by
  show (n.peers.entries.map _).map _ = _
  rw [List.map_map]
  refine List.map_congr_left fun e _ => ?_
  dsimp only [Function.comp]
  split
  next hs => exact (by simpa using hs : e.station = n.station).symm
  next => rfl

/-- A wagon in IDLE without a head, its brakes in step and no entry silent, announces an event and rests (R50). -/
theorem settles_idle {k : Node} (he : k.statusEvent = false) (hc : k.Calm) (hp : k.cue.phase = .idle) (hq : k.cue.queue = [])
    (hheard : ∀ e ∈ k.peers.entries, e.freshness ≠ .stale ∧ e.freshness ≠ .lost) :
    k.Settles ∧ k.announced = if k.peers.allowance then k.built
      else { k with peers := { k.peers with pendingBuild := true } } := by
  have hann : k.announced = if k.peers.allowance then k.built
      else { k with peers := { k.peers with pendingBuild := true } } := by
    unfold announced
    rw [build_of_rest (by rw [hp]; rfl)]
  have hheard' : ∀ e ∈ k.built.peers.entries, e.freshness ≠ .stale ∧ e.freshness ≠ .lost := fun e he => by
    rcases mem_built he with ⟨-, hf⟩ | ⟨-, hx⟩
    · rw [hf]
      exact ⟨by decide, by decide⟩
    · exact hheard e hx
  have hcue : k.built.cue = k.cue := by simp [built]
  have hcalm : k.built.Calm := built_calm_of hc ((peerSilent_of_heard hheard').trans (peerSilent_of_heard hheard).symm)
    (phaseConsequence_idle_empty (by rw [hcue, hp]) (by rw [hcue, hq]) false)
  refine ⟨⟨he, hc, ?_, ?_⟩, hann⟩ <;> rw [hann] <;> split
  · exact hcalm
  · exact hc
  · exact (by simp [built] : k.built.statusEvent = k.statusEvent).trans he
  · exact he

/-- The hold causes of a wagon in IDLE come into step, and nothing else follows (R112). -/
theorem settled_idle {m : Node} (he : m.statusEvent = true) (hb : m.BrakesFollow) (hp : m.cue.phase = .idle)
    (hq : m.cue.queue = []) :
    let k : Node := { m with cue := { m.cue with holds := m.wantedHolds }, statusEvent := false }
    k.Calm ∧ settled false m = { k with statusEvent := true } := by
  intro k
  have hcalm : k.Calm := calm_of_brakes (n := k) hb rfl (phaseConsequence_idle_empty (n := k) hp hq false)
  refine ⟨hcalm, ?_⟩
  by_cases hw : m.wantedHolds = m.cue.holds
  · have hm : m = { k with statusEvent := true } := by
      show m = { m with cue := { m.cue with holds := m.wantedHolds }, statusEvent := true }
      rw [hw, ← he]
    rw [← hm]
    exact settled_of_none (calm_of_brakes hb hw (phaseConsequence_idle_empty hp hq false))
  · rw [settled_holds hb hw (by rw [hp]; decide)]
    exact settled_of_none hcalm

/-- The own station of a VALID read is fitted (R170, check 3). -/
theorem station_fitted_of_valid {bytes : List Byte} {straps : BitVec 5} (h : judgeConfig bytes straps = .valid) :
    straps.toNat ∈ (List.range 24).filter (Live.isFitted (formLiveCopy bytes)) := by
  have hgood := fieldsGood_of_valid h
  rw [judgeConfig_eq] at h
  split at h
  · cases h
  split at h
  · cases h
  split at h
  · cases h
  next hs =>
    rw [not_or, not_le, Bool.not_eq_false] at hs
    have hsize := (field_range_of_good hgood (off := 21) (width := 1) (low := 2) (high := 24) (by decide)).2
    rw [List.mem_filter, List.mem_range]
    exact ⟨hs.1.trans_le hsize, hs.2⟩

theorem supervised_raw (n : Node) (a : Axis) : (n.supervised a).raw = (n.axisDrive a).raw := by
  unfold supervised
  split <;> rfl

theorem reportedVelocity_zero (up : Bool) : reportedVelocity up 0 = 0 := by cases up <;> rfl

/-- Outside ARMED and the phases of motion the wagon asks for nothing (R54). -/
theorem demand_of_still {n : Node} (h : n.cue.phase.drawing = false) : n.demand = 0 := by
  unfold demand
  dsimp only
  rw [h]
  rfl

/-- The content that the own entry shows of a wagon just started (R52). -/
def startedContent (a b : Node) : Content :=
  { phase := .idle, ringMode := b.ringMode, attention := b.inputs.attention, haltedRamping := false
    holds := b.cue.holds, faults := b.faults, current := 0, lastDone := b.cue.lastDone
    ringPos := a.drive.ring.raw + Live.homeOffset a.cfg.live, ringVel := 0, tilt := a.drive.tilt.raw, tiltVel := 0, demand := 0
    digest := digestOf a.cfg.live, refusal := b.cue.refusal }

/-- The part `b` that a VALID read starts in IDLE from the part `a` that has read it (R174). -/
structure StartedIdle (a b : Node) : Prop where
  phase : b.cue.phase = .idle
  cfg : b.cfg = { a.cfg with startDigest := digestOf a.cfg.live, lastDigest := digestOf a.cfg.live, recheck := some 256 }
  map : b.peers.map = ringMapOf a.cfg.live
  stations : b.peers.entries.map (·.station) = (ringMapOf a.cfg.live).fitted
  absent : ∀ e ∈ b.peers.entries, e.station ≠ a.station → e = Entry.blankPeer e.station
  random : b.tx.random = seedFor (Live.groupTag a.cfg.live) a.station
  planner : ∀ x, b.planner x = a.startingPlanner x
  drive : ∀ x, b.axisDrive x = a.supervised x
  turn : b.monitor.turn = channels.find? (Live.channelEnabled a.cfg.live)
  faults : b.faults = a.faults
  mode : b.ringMode = a.ringMode
  rx : b.rx = a.rx
  permit : b.cue.permit = a.cue.permit
  built : a.peers.allowance = true → a.tx.status.state = .empty → a.station ∈ (ringMapOf a.cfg.live).fitted →
    b.peers.ownSeq = a.peers.ownSeq + 1 ∧ b.peers.allowance = false ∧ b.peers.pendingBuild = false
      ∧ b.peers.timer = some (Live.statusPeriod a.cfg.live)
      ∧ { station := a.station, freshness := .fresh, age := 0, lastSeq := a.peers.ownSeq + 1, content := startedContent a b }
          ∈ b.peers.entries
      ∧ b.tx.status = Slot.fresh (header 1 24 (Live.groupTag a.cfg.live) (Live.groupTag a.cfg.live) a.station
          (a.peers.ownSeq + 1) ++ statusPayload (startedContent a b))

/-- A start with every brake applied and no head ends so. -/
theorem configured_started {a : Node} (hqueue : a.cue.queue = []) (happlied : ∀ x, (a.axisDrive x).released = false) :
    StartedIdle a (finish false a.configured) := by
  obtain ⟨x, hx⟩ := configured_eq a
  set m := a.configured
  clear_value m
  have hidle : m.cue.phase = .idle := by rw [hx]
  have hempty : m.cue.queue = [] := by rw [hx]; exact hqueue
  have hdrive (y : Axis) : m.axisDrive y = a.supervised y := by rw [hx]; cases y <;> rfl
  have hplan (y : Axis) : m.planner y = a.startingPlanner y := by rw [hx]; cases y <;> rfl
  have hfollow : m.BrakesFollow := fun y => by
    rw [brakeCommand_still (by rw [hidle]; rfl) (by rw [hidle]; decide), hdrive]
    unfold supervised
    split <;> exact happlied y
  obtain ⟨hcalm, hsettled⟩ := settled_idle (m := m) (by rw [hx]) hfollow hidle hempty
  set k : Node := { m with cue := { m.cue with holds := m.wantedHolds }, statusEvent := false } with hk
  have hentries : k.peers.entries = (ringMapOf a.cfg.live).fitted.map
      (fun st => if st = a.station then Entry.blankOwn st else Entry.blankPeer st) := by
    show m.peers.entries = _
    rw [hx]
    rfl
  have hheard : ∀ e ∈ k.peers.entries, e.freshness ≠ .stale ∧ e.freshness ≠ .lost := fun e he => by
    rw [hentries] at he
    obtain ⟨st, -, rfl⟩ := List.mem_map.1 he
    split <;> exact ⟨nofun, nofun⟩
  have hstations : k.peers.entries.map (·.station) = (ringMapOf a.cfg.live).fitted := by
    rw [hentries, List.map_map]
    refine (List.map_congr_left fun st _ => ?_).trans (List.map_id _)
    dsimp only [Function.comp]
    split <;> rfl
  have habsent : ∀ e ∈ k.peers.entries, e.station ≠ a.station → e = Entry.blankPeer e.station := fun e he hne => by
    rw [hentries] at he
    obtain ⟨st, -, rfl⟩ := List.mem_map.1 he
    split at hne
    next h => exact absurd h hne
    next h => rw [if_neg h]; rfl
  obtain ⟨hsettles, hann⟩ := settles_idle (k := k) rfl hcalm hidle hempty hheard
  have hstation : k.station = a.station := by show m.station = _; rw [hx]; rfl
  rw [finish_of_settled hsettled hsettles]
  obtain ⟨hcue, hplanner, haxis, hfaults, hrx, hmode, -, hinputs, hmonitor, hcfg, -, -⟩ := announced_keeps hann
  have hpeers : k.announced.peers.map = k.peers.map
      ∧ k.announced.peers.entries.map (·.station) = k.peers.entries.map (·.station)
      ∧ ∀ e ∈ k.announced.peers.entries, e.station ≠ a.station → e ∈ k.peers.entries := by
    rw [hann]
    split
    · refine ⟨rfl, built_stations k, fun e he hne => ?_⟩
      rcases mem_built he with ⟨h, -⟩ | ⟨-, h⟩
      · exact absurd (h.trans hstation) hne
      · exact h
    · exact ⟨rfl, rfl, fun e he _ => he⟩
  have hrandom : k.announced.tx.random = m.tx.random := by
    rw [hann]
    split
    · exact fillStatus_tx_random _ _
    · rfl
  obtain ⟨hmap, hkept, hothers⟩ := hpeers
  refine ⟨by rw [hcue]; exact hidle, hcfg.trans (by show m.cfg = _; rw [hx]; rfl), hmap.trans (by show m.peers.map = _; rw [hx]; rfl),
    hkept.trans hstations, fun e he hne => habsent e (hothers e he hne) hne, hrandom.trans (by rw [hx]; rfl),
    fun y => (hplanner y).trans ?_, fun y => (haxis y).trans ?_, by rw [hmonitor]; show m.monitor.turn = _; rw [hx]; rfl,
    hfaults.trans (by show m.faults = _; rw [hx]), hmode.trans (by show m.ringMode = _; rw [hx]),
    hrx.trans (by show m.rx = _; rw [hx]), by rw [hcue]; show m.cue.permit = _; rw [hx], fun hallow hslot hown => ?_⟩
  · rw [← hplan]
    cases y <;> rfl
  · rw [← hdrive]
    cases y <;> rfl
  · have hallow' : k.peers.allowance = true := by show m.peers.allowance = true; rw [hx]; exact hallow
    have hslot' : k.tx.status.state = .empty := by show m.tx.status.state = .empty; rw [hx]; exact hslot
    have hseq : k.peers.ownSeq = a.peers.ownSeq := by show m.peers.ownSeq = _; rw [hx]
    have hgroup : k.groupTag = Live.groupTag a.cfg.live := by
      unfold groupTag inService
      rw [show k.cue.phase = .idle from hidle]
      show Live.groupTag m.cfg.live = _
      rw [hx]
    have hperiod : k.statusPeriod = Live.statusPeriod a.cfg.live := by
      unfold statusPeriod inService
      rw [show k.cue.phase = .idle from hidle]
      show Live.statusPeriod m.cfg.live = _
      rw [hx]
    rw [if_pos hallow'] at hann
    have hcontent : k.ownContent = startedContent a k.announced := by
      have hring : k.measured .ring = a.drive.ring.raw + Live.homeOffset a.cfg.live := by
        unfold measured homeOffset inService
        rw [show k.cue.phase = .idle from hidle]
        show (m.axisDrive .ring).raw + Live.homeOffset m.cfg.live = _
        rw [hdrive, supervised_raw, hx]
        rfl
      have htilt : k.measured .tilt = a.drive.tilt.raw := by
        show (m.axisDrive .tilt).raw = _
        rw [hdrive, supervised_raw]
        rfl
      have hcurrent : k.currentCue = 0 := by
        unfold currentCue headCue
        rw [show k.cue.queue = [] from hempty]
        rfl
      have hramping : (k.cue.phase == .halted && k.cue.ramping) = false := by
        rw [show k.cue.phase = .idle from hidle]
        rfl
      have hdigest : k.cfg.startDigest = digestOf a.cfg.live := by
        show m.cfg.startDigest = _
        rw [hx]
        rfl
      have hstill (y : Axis) : (k.planner y).velocity = 0 := by
        have : k.planner y = m.planner y := by cases y <;> rfl
        rw [this, hplan]
        rfl
      have hringVel : k.ring.velocity = 0 := hstill .ring
      have htiltVel : k.tilt.velocity = 0 := hstill .tilt
      unfold ownContent startedContent
      rw [hring, htilt, hcurrent, hramping, hdigest, hringVel, htiltVel, reportedVelocity_zero, reportedVelocity_zero,
        demand_of_still (by rw [show k.cue.phase = .idle from hidle]; rfl), hcue, hmode, hinputs, hfaults,
        show k.cue.phase = .idle from hidle]
    have hpeers : k.announced.peers = { k.peers with
        entries := k.peers.entries.map (fun x => if x.station == k.station then
          { station := k.station, freshness := .fresh, age := 0, lastSeq := k.peers.ownSeq + 1, content := k.ownContent }
          else x)
        ownSeq := k.peers.ownSeq + 1, allowance := false, pendingBuild := false, timer := some k.statusPeriod } := by
      rw [hann]
      rfl
    have hslotAfter : k.announced.tx.status = Slot.fresh k.statusFrame := by
      rw [hann]
      show (fillStatus k.statusFrame k).tx.status = _
      rw [fillStatus_empty _ hslot']
    refine ⟨by rw [hpeers, ← hseq], by rw [hpeers], by rw [hpeers], by rw [hpeers, ← hperiod], ?_, ?_⟩
    · rw [hpeers, ← hcontent, ← hstation, ← hseq]
      obtain ⟨e, he, hes⟩ := List.mem_map.1 (hstations.symm ▸ hown : a.station ∈ k.peers.entries.map (·.station))
      exact List.mem_map.2 ⟨e, he, if_pos (by rw [hstation, ← hes]; exact beq_self_eq_true _)⟩
    · rw [hslotAfter, ← hcontent]
      unfold statusFrame
      rw [hgroup, hstation, hseq]

/-- Without a fault, and with the chain closed, a start is IDLE (R174). -/
theorem startConfigured_sound {a : Node} (hfaults : a.faults = 0) (hchain : a.chainClosed = true) :
    startConfigured a = a.configured := by
  have hkept : haltForKeptFaults a.configured = a.configured := by
    have hnone : FaultSet.lowest a.configured.faults = none := by
      rw [configured_faults, hfaults]
      decide
    unfold haltForKeptFaults
    rw [hnone]
  have hclosed : a.configured.chainClosed = true := by
    obtain ⟨x, hx⟩ := configured_eq a
    rw [hx]
    exact hchain
  rw [startConfigured_eq, hkept, hclosed]
  rfl

end Node

open Node

/-- Settles O10: IDLE as the start writes it, the hold causes in step, and the first STATUS. -/
theorem validReadStartsWagon : Obligations.ValidReadStartsWagon := by
  intro bytes s hlisten hphase hread hjudge hfaults hchain hqueue happlied live own measured
  have heff : configReadComplete bytes s.node = (readIn bytes s.node).configured := by
    rw [configReadComplete_eq ⟨hphase, hread⟩, if_pos hjudge]
    exact startConfigured_sound (a := readIn bytes s.node) hfaults hchain
  have hown : own ∈ (ringMapOf live).fitted := station_fitted_of_valid hjudge
  have h := configured_started (a := readIn bytes s.node) hqueue happlied
  have hlive := readIn_live bytes s.node
  have hstatus : (readIn bytes s.node).cfg.status = .valid := by
    simp only [readIn]
    exact hjudge
  have hexec : exec (.configReadComplete bytes) s = .next { s with node := finish false (readIn bytes s.node).configured } :=
    (takeStep_listening hlisten).trans (by rw [heff])
  have hraw : (readIn bytes s.node).cfg.raw = bytes := rfl
  have hread' : (readIn bytes s.node).cfg.read = .idle := rfl
  have hmcs : (readIn bytes s.node).cfg.mcsLow = false := rfl
  have hsame : readIn bytes s.node = { s.node with cfg := (readIn bytes s.node).cfg } := rfl
  have hstation : (readIn bytes s.node).station = own := rfl
  set b := finish false (readIn bytes s.node).configured
  clear_value b
  set a := readIn bytes s.node
  clear_value a
  have hcfg {α : Type} (f : Cfg → α) : f b.cfg = f _ := congrArg f h.cfg
  have hmode : a.ringMode = s.node.ringMode := by rw [hsame]
  have hfaultless : b.faults = 0 := h.faults.trans (by rw [hsame]; exact hfaults)
  have hraws (x : Axis) : (a.axisDrive x).raw = (s.node.axisDrive x).raw := by rw [hsame]; cases x <;> rfl
  refine ⟨b, hexec, h.phase, (hcfg Cfg.status).trans hstatus, (hcfg Cfg.live).trans hlive, (hcfg Cfg.raw).trans hraw,
    (hcfg Cfg.read).trans hread', (hcfg Cfg.mcsLow).trans hmcs, (hcfg Cfg.startDigest).trans (congrArg digestOf hlive),
    (hcfg Cfg.lastDigest).trans (congrArg digestOf hlive), hcfg Cfg.recheck, h.map.trans (congrArg ringMapOf hlive),
    h.stations.trans (congrArg (fun l => (ringMapOf l).fitted) hlive), fun e he hne => ?_, ?_,
    fun x => (h.planner x).trans ?_, fun x => ?_, ?_, hfaultless, h.mode.trans hmode, h.rx.trans (by rw [hsame]),
    h.permit.trans (by rw [hsame]), fun hallow hslot => ?_⟩
  · rw [h.absent e he (hstation ▸ hne)]
    exact ⟨rfl, rfl, rfl, rfl⟩
  · rw [h.random, hlive, hstation]
    rfl
  · have hset : a.startSetpoint x = limitTo (Live.softLimits live x) (measured x) * 65536 := by
      have hdrive : a.drive = s.node.drive := by rw [hsame]
      have hmeasured : (match x with
          | .ring => a.drive.ring.raw + Live.homeOffset a.live
          | .tilt => a.drive.tilt.raw) = measured x := by
        cases x
        · exact congrArg₂ (fun d l => d.ring.raw + Live.homeOffset l) hdrive hlive
        · exact congrArg (·.tilt.raw) hdrive
      exact congrArg₂ (fun l (y : Int) => limitTo (Live.softLimits l x) y * 65536) hlive hmeasured
    unfold startingPlanner
    rw [hset]
  · have hagrees : a.brakeAgrees x = !s.node.brakeLifted x := by
      have hout : (a.axisDrive x).released = false := by rw [hsame]; exact happlied x
      have hlift : a.brakeLifted x = s.node.brakeLifted x := by rw [hsame]; cases x <;> rfl
      unfold brakeAgrees
      rw [hout, hlift]
      cases s.node.brakeLifted x <;> rfl
    rw [h.drive]
    unfold supervised
    rw [hagrees]
    cases s.node.brakeLifted x with
    | false => exact ⟨rfl, nofun⟩
    | true => exact ⟨rfl, fun _ => congrArg Live.brakeTicks hlive⟩
  · exact h.turn.trans (congrArg (fun l => channels.find? (Live.channelEnabled l)) hlive)
  · have hcontent : startedContent a b =
        { phase := .idle, ringMode := b.ringMode, attention := b.inputs.attention, haltedRamping := false
          holds := b.cue.holds, faults := 0, current := 0, lastDone := b.cue.lastDone
          ringPos := measured .ring, ringVel := 0, tilt := measured .tilt, tiltVel := 0, demand := 0
          digest := digestOf live, refusal := b.cue.refusal } := by
      unfold startedContent
      rw [hfaultless, hlive, show a.drive = s.node.drive by rw [hsame]]
    have hseq : a.peers.ownSeq = s.node.peers.ownSeq := by rw [hsame]
    have hbuilt := h.built (by rw [hsame]; exact hallow) (by rw [hsame]; exact hslot) (by rw [hstation, hlive]; exact hown)
    rw [hcontent, hlive, hstation, hseq] at hbuilt
    exact hbuilt

end Sys2Proof.Machine
end

section
/-! A start with kept faults, or with the emergency-stop chain open, is HALTED stopped (R128, R151). -/

namespace Sys2Proof.Machine

/-- The lowest fault of a set is in it, and no other has a lower code. -/
theorem FaultSet.lowest_spec {f : FaultSet} {k : FaultKind} (h : f.lowest = some k) :
    f.has k = true ∧ ∀ j, f.has j = true → k.code ≤ j.code := by
  have hsorted : FaultKind.all.Pairwise (fun a b => a.code ≤ b.code) := by decide
  unfold FaultSet.lowest at h
  obtain ⟨hk, before, after, hall, hbefore⟩ := List.find?_eq_some_iff_append.1 h
  refine ⟨hk, fun j hj => ?_⟩
  rw [hall, List.pairwise_append, List.pairwise_cons] at hsorted
  obtain ⟨-, ⟨hafter, -⟩, -⟩ := hsorted
  have hmem : j ∈ before ++ k :: after := hall ▸ FaultKind.mem_all j
  rw [List.mem_append, List.mem_cons] at hmem
  rcases hmem with hb | rfl | ha
  · have := hbefore j hb
    rw [hj] at this
    cases this
  · exact le_rfl
  · exact hafter j ha

theorem FaultSet.insert_of_has {f : FaultSet} {k : FaultKind} (h : f.has k = true) : f.insert k = f :=
  FaultSet.ext_has fun j => by
    rw [FaultSet.has_insert]
    exact ⟨fun hj => hj.elim id fun e => e ▸ h, .inl⟩

namespace Node

/-- The part HALTED stopped at its start, before the rest of the step: its faults and its halt record. -/
structure HaltedStart (n : Node) (faults : FaultSet) (record : HaltRecord) : Prop where
  phase : n.cue.phase = .halted
  event : n.statusEvent = true
  stopped : n.cue.ramping = false
  stillRing : n.ring.velocity = 0
  stillTilt : n.tilt.velocity = 0
  faults : n.faults = faults
  record : n.cue.haltRecord = some record

/-- Entering HALTED at rest is HALTED stopped (R118, R124). -/
theorem haltedStart_of_still {n : Node} (hring : n.ring.velocity = 0) (htilt : n.tilt.velocity = 0) (reason : HaltReason) :
    (writeHaltRecord n.station reason (enterHalted n)).HaltedStart n.faults ⟨n.station, reason⟩ := by
  obtain ⟨hp, -, -, -, -, -, -, -, hr, ht, -, hramp⟩ := enterHalted_enters n
  refine ⟨hp, enterHalted_marked n, ?_, by simpa using hring, by simpa using htilt, by simp, rfl⟩
  by_contra h
  rcases hramp.1 ((Bool.not_eq_false _).mp h) with h | h
  · rw [hring] at h
    exact absurd h (lt_irrefl 0)
  · rw [htilt] at h
    exact absurd h (lt_irrefl 0)

/-- The chain found open in HALTED adds ESTOP and leaves the halt record (R119, R151). -/
theorem HaltedStart.raise_estop {n : Node} {f : FaultSet} {r : HaltRecord} (h : n.HaltedStart f r) :
    (raise .estop n).HaltedStart (f.insert .estop) r := by
  obtain ⟨hphase, hevent, hstop, hring, htilt, hfaults, hrecord⟩ := h
  by_cases hhas : n.faults.has .estop = true
  · rw [raise_of_barred (.inr hhas), ← hfaults, FaultSet.insert_of_has hhas]
    exact ⟨hphase, hevent, hstop, hring, htilt, rfl, hrecord⟩
  · rw [raise_eq (by unfold inService; rw [hphase]; rfl) (by simpa using hhas), if_pos hphase]
    obtain ⟨hcue, -, -, -, -, -, hset, hmark, -⟩ := latched_same .estop n
    have hkept : (requestHalt .estop (latched .estop n)).cue.haltRecord = n.cue.haltRecord := by
      rw [← hcue]
      unfold requestHalt
      split <;> rfl
    exact ⟨by simp [hcue, hphase], by simp [hmark], by simp [hcue, hstop], by simp [latched], by simp [latched],
      by simp [hset, hfaults], hkept.trans hrecord⟩

/-- The start of the part `a`, HALTED: the faults, whose lowest gives the record, and the HALT slot (R119, R128, R151). -/
structure StartsHalted (a m : Node) : Prop where
  start : ∃ r, m.HaltedStart (if a.chainClosed then a.faults else a.faults.insert .estop) r
    ∧ (a.faults ≠ 0 → ∃ k, a.faults.lowest = some k ∧ r = ⟨a.station, .fault k⟩)
    ∧ (a.faults = 0 → r = ⟨a.station, .fault .estop⟩)
  untouched : a.chainClosed = true → m.tx.halt = a.tx.halt ∧ m.cue.haltCount = a.cue.haltCount
  requested : a.faults = 0 → a.tx.halt.state = .empty →
    m.tx.halt.state = .pending ∧ m.cue.haltCount = a.cue.haltCount + 1

theorem startConfigured_halts {a : Node} (h : a.faults ≠ 0 ∨ a.chainClosed = false) : StartsHalted a (startConfigured a) := by
  obtain ⟨x, hx⟩ := configured_eq a
  rw [startConfigured_eq]
  set c := a.configured
  clear_value c
  have hfaults : c.faults = a.faults := by rw [hx]
  have hchain : c.chainClosed = a.chainClosed := by rw [hx]; rfl
  have hring : c.ring.velocity = 0 := by rw [hx]; rfl
  have htilt : c.tilt.velocity = 0 := by rw [hx]; rfl
  have hstation : c.station = a.station := by rw [hx]; rfl
  have hslot : c.tx.halt = a.tx.halt := by rw [hx]
  have hcount : c.cue.haltCount = a.cue.haltCount := by rw [hx]
  have hidle : c.cue.phase = .idle := by rw [hx]
  clear hx
  cases hlow : a.faults.lowest with
  | none =>
    have hnone : a.faults = 0 := FaultSet.eq_zero_of_lowest hlow
    have hopen : a.chainClosed = false := h.resolve_left (not_not_intro hnone)
    have hkept : haltForKeptFaults c = c := by
      unfold haltForKeptFaults
      rw [hfaults, hlow]
    rw [hkept, hchain, hopen]
    show StartsHalted a (raise .estop c)
    rw [raise_eq (by unfold inService; rw [hidle]; rfl) (by rw [hfaults, hnone]; decide), if_neg (by rw [hidle]; decide)]
    obtain ⟨hcue, htx, -, hcfg, -, -, hset, -, -⟩ := latched_same .estop c
    have hstart := haltedStart_of_still (n := latched .estop c) rfl rfl (.fault .estop)
    have hown : (latched .estop c).station = c.station := by unfold station; rw [hcfg]
    rw [hset, hfaults, hown] at hstart
    obtain ⟨-, -, -, -, -, hhalts, -, -, -, -, htx', -⟩ := enterHalted_enters (latched .estop c)
    set z := writeHaltRecord c.station (.fault .estop) (enterHalted (latched .estop c)) with hz
    have hztx : z.tx = c.tx := (writeHaltRecord_tx _ _ _).trans (htx'.trans htx)
    have hzcount : z.cue.haltCount = c.cue.haltCount := hhalts.trans (congrArg _ hcue)
    have hrecord : (requestHalt .estop z).cue.haltRecord = z.cue.haltRecord := by
      unfold requestHalt
      split <;> rfl
    refine ⟨⟨⟨a.station, .fault .estop⟩, ?_, fun hne => absurd hnone hne, fun _ => rfl⟩,
      fun hc => absurd (hopen.symm.trans hc) nofun, fun _ he => ?_⟩
    · rw [hopen]
      obtain ⟨h1, h2, h3, h4, h5, h6, h7⟩ := hstart
      exact ⟨by simpa using h1, by simpa using h2, by simpa using h3, by simpa using h4, by simpa using h5, by simpa using h6,
        (hrecord.trans h7).trans (by rw [hstation])⟩
    · obtain ⟨hhalt, hcue', -⟩ := (requestHalt_writes .estop z).1 (by rw [hztx, hslot]; exact he)
      rw [hhalt, hcue', hzcount, hcount]
      exact ⟨rfl, rfl⟩
  | some k =>
    have hne : a.faults ≠ 0 := fun h0 => by
      rw [h0, show FaultSet.lowest 0 = none by decide] at hlow
      cases hlow
    have hkept : haltForKeptFaults c = writeHaltRecord c.station (.fault k) (enterHalted c) := by
      unfold haltForKeptFaults
      rw [hfaults, hlow]
    have hstart := haltedStart_of_still hring htilt (.fault k)
    obtain ⟨-, -, -, -, -, hhalts, -, -, -, -, htx, -⟩ := enterHalted_enters c
    rw [hfaults, hstation] at hstart
    have hclosed : (haltForKeptFaults c).chainClosed = a.chainClosed := by
      rw [hkept, ← hchain]
      unfold chainClosed level
      rw [writeHaltRecord_inputs, enterHalted_inputs]
    rw [hclosed, hkept, hstation]
    refine ⟨⟨⟨a.station, .fault k⟩, ?_, fun _ => ⟨k, hlow, rfl⟩, fun h0 => absurd h0 hne⟩, fun hc => ?_, fun h0 => absurd h0 hne⟩
    · cases hc : a.chainClosed with
      | true => exact hstart
      | false => exact hstart.raise_estop
    · rw [hc]
      exact ⟨(congrArg (·.halt) htx).trans hslot, hhalts.trans hcount⟩

end Node

open Node

/-- Settles O11: HALTED at rest from the configured part, which the rest of the step leaves so. -/
theorem startWithFaultHalts : Obligations.StartWithFaultHalts := by
  intro bytes s hlisten hphase hread hjudge hcause hqueue hslot
  have heff : configReadComplete bytes s.node = startConfigured (readIn bytes s.node) := by
    rw [configReadComplete_eq ⟨hphase, hread⟩, if_pos hjudge]
  have hexec : exec (.configReadComplete bytes) s =
      .next { s with node := finish false (startConfigured (readIn bytes s.node)) } :=
    (takeStep_listening hlisten).trans (by rw [heff])
  have hsame : readIn bytes s.node = { s.node with cfg := (readIn bytes s.node).cfg } := rfl
  have hstation : (readIn bytes s.node).station = s.node.cfg.straps.toNat := rfl
  set a := readIn bytes s.node
  clear_value a
  have hfaults : a.faults = s.node.faults := by rw [hsame]
  have hchain : a.chainClosed = s.node.chainClosed := by rw [hsame]; rfl
  have hhalt : a.tx.halt = s.node.tx.halt := by rw [hsame]
  have hcount : a.cue.haltCount = s.node.cue.haltCount := by rw [hsame]
  obtain ⟨⟨r, hstart, hkept, hfresh⟩, huntouched, hrequested⟩ :=
    startConfigured_halts (a := a) (by rw [hfaults, hchain]; exact hcause)
  obtain ⟨hend, -⟩ := halted_finish hstart.phase hstart.event
  rw [hfaults, hchain, hstation, hhalt, hcount] at *
  refine ⟨_, hexec, hend.phase, ?_, (congrArg _ hend.ring).trans hstart.stillRing, (congrArg _ hend.tilt).trans hstart.stillTilt,
    hend.faults.trans hstart.faults, fun hne => ?_, fun hc => ?_, fun h0 => ?_⟩
  · cases hr : (finish false (startConfigured a)).cue.ramping with
    | false => rfl
    | true => exact absurd (hstart.stopped.symm.trans (hend.rampOff hr)) nofun
  · obtain ⟨k, hlow, rfl⟩ := hkept hne
    obtain ⟨hhas, hleast⟩ := FaultSet.lowest_spec hlow
    exact ⟨k, hhas, hleast, hend.haltRecord.trans hstart.record⟩
  · obtain ⟨h1, h2⟩ := huntouched hc
    exact ⟨hend.halt.trans h1, hend.haltCount.trans h2⟩
  · obtain ⟨h1, h2⟩ := hrequested h0 hslot
    exact ⟨hend.haltRecord.trans (hstart.record.trans (by rw [hfresh h0])), (congrArg _ hend.halt).trans h1,
      hend.haltCount.trans h2⟩

end Sys2Proof.Machine
end

section
/-! The order of the blocks of a tick, and what a tick leaves of the receive side and of the links (R90, R140, R144). -/

namespace Sys2Proof.Machine

/-! ### The schedule (log entry 2) -/

theorem nodup_eraseDups {α : Type} [DecidableEq α] : ∀ l : List α, l.eraseDups.Nodup
  | [] => by simp
  | a :: l => by
    rw [List.eraseDups_cons, List.nodup_cons, List.mem_eraseDups]
    exact ⟨by simp, nodup_eraseDups _⟩
termination_by l => l.length
decreasing_by exact Nat.lt_succ_of_le (List.length_filter_le _ _)

/-- The planners stand before the blocks that use their setpoints; the other blocks stand once each in the order asked for. -/
theorem schedule_parts (order : List TickBlock) : ∃ before after : List TickBlock,
    schedule order = before ++ .planners :: after ∧ (∀ b ∈ before, b ≠ .planners ∧ usesSetpoint b = false)
      ∧ (∀ b ∈ after, b ≠ .planners) ∧ ∀ b, b ≠ .planners → (before ++ after).count b = ((order ++ everyBlock).eraseDups).count b := by
  refine ⟨_, _, rfl, fun b hb => ?_, fun b hb => ?_, fun b hb => ?_⟩
  · have := List.mem_takeWhile_imp hb
    simpa only [Bool.and_eq_true, bne_iff_ne, Bool.not_eq_true'] using this
  · simpa using (List.mem_filter.1 hb).2
  · rw [List.count_append, List.count_filter (by simpa using hb), ← List.count_append, List.takeWhile_append_dropWhile]

/-- Every block acts once in a tick. -/
theorem schedule_count (order : List TickBlock) {b : TickBlock} (hb : b ∈ everyBlock) : (schedule order).count b = 1 := by
  obtain ⟨before, after, hsplit, hbefore, hafter, hcount⟩ := schedule_parts order
  rw [hsplit]
  by_cases hp : b = .planners
  · subst hp
    rw [List.count_append, List.count_cons_self, List.count_eq_zero.2 fun h => (hbefore _ h).1 rfl,
      List.count_eq_zero.2 fun h => hafter _ h rfl]
  · rw [List.count_append, List.count_cons_of_ne (Ne.symm hp), ← List.count_append, hcount b hp]
    exact List.count_eq_one_of_mem (nodup_eraseDups _) (List.mem_eraseDups.2 (List.mem_append_right _ hb))

/-- Around a block the schedule holds the block no more. -/
theorem schedule_around (order : List TickBlock) {b : TickBlock} (hb : b ∈ everyBlock) : ∃ before after : List TickBlock,
    schedule order = before ++ b :: after ∧ (∀ x ∈ before, x ≠ b) ∧ ∀ x ∈ after, x ≠ b := by
  have hone := schedule_count order hb
  have hmem : b ∈ schedule order := List.count_pos_iff.1 (by omega)
  obtain ⟨before, after, hsplit⟩ := List.append_of_mem hmem
  rw [hsplit, List.count_append, List.count_cons_self] at hone
  have hb0 : before.count b = 0 := by omega
  have ha0 : after.count b = 0 := by omega
  exact ⟨before, after, hsplit, fun x hx e => List.count_eq_zero.1 hb0 (e ▸ hx), fun x hx e => List.count_eq_zero.1 ha0 (e ▸ hx)⟩

/-- The planners act before the blocks that use their setpoints (R140, R146). -/
theorem schedule_planners_first (order : List TickBlock) {b : TickBlock} (hb : b ∈ everyBlock) (huse : usesSetpoint b = true) :
    ∃ before after : List TickBlock, schedule order = before ++ b :: after ∧ .planners ∈ before
      ∧ ∀ x ∈ after, x ≠ .planners ∧ x ≠ b := by
  have hone := schedule_count order hb
  have hne : b ≠ .planners := by
    rintro rfl
    cases huse
  obtain ⟨before, after, hsplit, hbefore, hafter, -⟩ := schedule_parts order
  rw [hsplit, List.count_append, List.count_cons_of_ne (Ne.symm hne)] at hone
  have hb0 : before.count b = 0 := List.count_eq_zero.2 fun h => by
    have := (hbefore b h).2
    rw [huse] at this
    cases this
  obtain ⟨mid, rest, rfl⟩ := List.append_of_mem (List.count_pos_iff.1 (by omega : 0 < after.count b))
  rw [List.count_append, List.count_cons_self] at hone
  have hrest : rest.count b = 0 := by omega
  refine ⟨before ++ .planners :: mid, rest, by simp [hsplit], by simp, fun x hx => ⟨?_, fun e => ?_⟩⟩
  · exact hafter x (by simp [hx])
  · exact List.count_eq_zero.1 hrest (e ▸ hx)

namespace Node

/-! ### The clash age (R18) -/

theorem clashAge_clearFaults (n : Node) : (clearFaults n).rx.clashAge = n.rx.clashAge := by
  unfold clearFaults
  dsimp only
  (repeat' split) <;> simp

theorem clashAge_clearTow (n : Node) : (clearTow n).rx.clashAge = n.rx.clashAge := by
  unfold clearTow
  split <;> simp

theorem clashAge_closeClear (f : List Byte) (n : Node) : (closeClear f n).rx.clashAge = n.rx.clashAge := by
  unfold closeClear
  dsimp only
  split <;> rfl

theorem clashAge_takeStatus (st : Nat) (f : List Byte) (n : Node) : (takeStatus st f n).rx.clashAge = n.rx.clashAge := by
  rw [takeStatus_eq]
  split <;> simp [heardStatus]

theorem clashAge_judgeCue (r : CueRecord) (n : Node) : (judgeCue r n).rx.clashAge = n.rx.clashAge := by
  unfold judgeCue
  dsimp only
  split
  · rfl
  · split <;> simp

theorem clashAge_cancelCue (id : CueId) (n : Node) : (cancelCue id n).rx.clashAge = n.rx.clashAge := by
  rcases cancelCue_cases id n with he | he | ⟨c, rest, -, -, -, he⟩ <;> rw [he]
  · unfold cancelHead
    split <;> simp
  · simp

/-- Nothing of a tick but its own block changes the clash age: a RESET at the head keeps it (R18, R178). -/
theorem clashAge_effect {c : Instr} (hc : c.InTick = true) (n : Node) : (effectOf c n).rx.clashAge = n.rx.clashAge := by
  have due (d : Due) : (takeDue d n).rx.clashAge = n.rx.clashAge := by simp
  have head {kind : Nat} {work : List Byte → Node → Node} {m : Node}
      (hm : m.rx.clashAge = n.rx.clashAge) (hw : ∀ f, (work f m).rx.clashAge = n.rx.clashAge) :
      (withHead kind work m).rx.clashAge = n.rx.clashAge :=
    withHead_induct (P := fun x : Node => x.rx.clashAge = n.rx.clashAge) (fun f _ => hw f) hm
  cases c with
  | driveExchangeComplete reply => exact congrArg (·.clashAge) (completeExchange_rx reply n)
  | sensorReadComplete a v => exact congrArg (·.clashAge) (completeRead_rx a v n)
  | statusPeriodExpiry => exact due .statusPeriod
  | peerEntryStale st => exact due (.peerStale st)
  | peerEntryLost st => exact due (.peerLost st)
  | armTimerExpiry => exact due .arm
  | permitTimerExpiry => exact due .permit
  | brakeTimerExpiry a => exact due (.brake a)
  | recheckTimerExpiry => exact due .recheck
  | pinchLimit a => exact due (.pinch a)
  | settleCountReached => exact due .settle
  | monitorTrip x => exact due (.trip x)
  | monitorUntrip x => exact due (.untrip x)
  | monitorConversion r =>
    show (convert r n).rx.clashAge = _
    unfold convert
    split
    · split <;> rfl
    · rfl
  | frameComplete =>
    show (frameComplete n).rx.clashAge = _
    unfold frameComplete countFate
    split <;> rfl
  | status =>
    refine head rfl fun f => ?_
    dsimp only
    split
    · rfl
    · split
      · exact clashAge_takeStatus _ _ n
      · rfl
  | cue =>
    refine head rfl fun f => ?_
    split
    · rfl
    · split
      · rfl
      · exact clashAge_judgeCue _ n
  | permit => exact head rfl fun f => rfl
  | clearLatchPart =>
    refine head rfl fun f => ?_
    dsimp only
    split
    · rfl
    · exact clashAge_closeClear _ _
  | clearFaultPart =>
    refine head rfl fun f => ?_
    dsimp only
    split
    · rfl
    · exact (clashAge_closeClear _ _).trans (clashAge_clearFaults n)
  | clearTowPart =>
    refine head rfl fun f => ?_
    dsimp only
    split
    · rfl
    · exact (clashAge_closeClear _ _).trans (clashAge_clearTow n)
  | cancel => exact head rfl fun f => clashAge_cancelCue _ n
  | inquire =>
    refine head rfl fun f => ?_
    dsimp only
    split
    · split <;> rfl
    · rfl
  | reset straps =>
    refine head rfl fun f => ?_
    split <;> rfl
  | _ => cases hc

theorem rx_runBlock {b : TickBlock} (hb : b ≠ .clashAge) (hown : b.IsBlock = true) (n : Node) : (runBlock b n).rx = n.rx := by
  have plan (a : Axis) (m : Node) : (planAxis a m).rx = m.rx := by
    unfold planAxis profileTick controlledTick emergencyTick
    dsimp only
    (repeat' split) <;> simp
  have brake (a : Axis) (m : Node) : (superviseBrake a m).rx = m.rx := by
    unfold superviseBrake addDue
    dsimp only
    (repeat' split) <;> simp
  cases b with
  | clashAge => exact absurd rfl hb
  | expiry d => cases hown
  | conversion r => cases hown
  | planners =>
    show (runPlanners n).rx = _
    unfold runPlanners rescale
    rw [plan, plan]
    split <;> rfl
  | brakeTimers =>
    show (superviseBrake .tilt (superviseBrake .ring n)).rx = _
    rw [brake, brake]
  | peerAging =>
    show (agePeers n).rx = _
    unfold agePeers
    split <;> rfl
  | statusTimer =>
    show (lowerStatusTimer n).rx = _
    unfold lowerStatusTimer addDue
    (repeat' split) <;> rfl
  | permitTimer =>
    show (lowerPermitTimer n).rx = _
    unfold lowerPermitTimer addDue
    (repeat' split) <;> rfl
  | armTimer =>
    show (lowerArmTimer n).rx = _
    unfold lowerArmTimer addDue
    (repeat' split) <;> rfl
  | settleCount =>
    show (countSettle n).rx = _
    unfold countSettle addDue
    (repeat' split) <;> rfl
  | recheckTimer =>
    show (lowerRecheckTimer n).rx = _
    unfold lowerRecheckTimer addDue
    (repeat' split) <;> rfl
  | towLogic =>
    show (decideTow n).rx = _
    unfold decideTow enterTowed
    (repeat' split) <;> simp
  | skewCheck => simp [runBlock, skewCheck]
  | tiltDriveCheck => simp [runBlock, judgeTiltDrive]
  | limitCheck => simp [runBlock, checkLimits]
  | followCheck => simp [runBlock, checkFollow]
  | monitorTurn => rfl
  | exchange => rfl

theorem clashAge_keptBy (x : Counter) :
    KeptBy (fun n => n.rx.clashAge = x) (fun c => c.InTick = true) (fun b => b ≠ .clashAge) where
  consequence _ c n _ h := (congrArg (·.clashAge) (applyConsequence_rx c n)).trans h
  build n h := (congrArg (·.clashAge) (build_rx n)).trans h
  mark _ _ h := h
  pend _ _ h := h
  allow _ h := h
  effect _ n hc h := (clashAge_effect hc n).trans h
  block _ n hb hown h := (congrArg (·.clashAge) (rx_runBlock hb hown n)).trans h

/-- The clash age goes up by one at a tick (R18). -/
theorem clashAge_controlTick (order : List TickBlock) (n : Node) :
    (controlTick order n).rx.clashAge = n.rx.clashAge.bump := by
  obtain ⟨before, after, hsplit, hbefore, hafter⟩ := schedule_around order (b := .clashAge) (by decide)
  have hkept (x : Counter) := clashAge_keptBy x
  unfold controlTick
  rw [hsplit, runBlocks_append, runBlocks_cons]
  set m := runBlocks before (allow (beforeTick n)) with hm
  have hold : m.rx.clashAge = n.rx.clashAge :=
    (hkept _).runBlocks (fun _ hc => hc.inTick) before hbefore _ ((hkept _).allow _ ((hkept _).beforeTick (fun _ hc => hc) n rfl))
  have hnew : (runBlock .clashAge m).rx.clashAge = n.rx.clashAge.bump := by
    rw [← hold]
    rfl
  exact (hkept _).finish true _ ((hkept _).runBlocks (fun _ hc => hc.inTick) after hafter _ ((hkept _).settled true _ hnew))

end Node

end Sys2Proof.Machine
end

section
/-! A tick of a wagon without a valid configuration plans nothing, latches nothing and holds for the permit alone (R53, R90,
R92, R112, R117, R173). -/

namespace Sys2Proof

/-- The marks that a tick out of service can set (log entry 1). -/
def Due.OutOfService : Due → Bool
  | .statusPeriod | .permit | .brake _ | .recheck => true
  | _ => false

end Sys2Proof

namespace Sys2Proof.Machine

namespace Node

/-- The part `n` that a tick makes of the part `a` out of service. -/
structure Unplanned (a n : Node) : Prop where
  phase : n.cue.phase = a.cue.phase
  queue : n.cue.queue = a.cue.queue
  rx : { n.rx with clashAge := a.rx.clashAge } = a.rx
  ring : n.ring = a.ring
  tilt : n.tilt = a.tilt
  supplyScale : n.supplyScale = a.supplyScale
  ringMode : n.ringMode = a.ringMode
  faults : n.faults = a.faults
  inputs : n.inputs = a.inputs
  live : n.cfg.live = a.cfg.live
  marks : ∀ d ∈ n.due, d.OutOfService = true

theorem Unplanned.served {a n : Node} (h : Unplanned a n) (hs : a.inService = false) : n.inService = false := by
  unfold inService at hs ⊢
  rw [h.phase]
  exact hs

theorem phase_outOfService {n : Node} (h : n.inService = false) : n.cue.phase = .starting ∨ n.cue.phase = .configFault := by
  unfold inService at h
  cases hp : n.cue.phase <;> rw [hp] at h <;> simp_all [Phase.inService]

theorem phaseConsequence_outOfService {n : Node} (h : n.inService = false) (tick : Bool) : n.phaseConsequence tick = none := by
  unfold phaseConsequence
  rcases phase_outOfService h with e | e <;> rw [e]

theorem raiseIf_outOfService {n : Node} (h : n.inService = false) (b : Bool) (k : FaultKind) : raiseIf b k n = n :=
  raiseIf_of_barred b (.inl h)

/-- An act that leaves all but the marks, the peers, the cue timers, the drives, the monitor and the digests. -/
theorem Unplanned.act {a n m : Node} (h : Unplanned a n) (hphase : m.cue.phase = n.cue.phase) (hqueue : m.cue.queue = n.cue.queue)
    (hrx : m.rx = n.rx) (hring : m.ring = n.ring) (htilt : m.tilt = n.tilt) (hscale : m.supplyScale = n.supplyScale)
    (hmode : m.ringMode = n.ringMode) (hfaults : m.faults = n.faults) (hinputs : m.inputs = n.inputs)
    (hlive : m.cfg.live = n.cfg.live) (hmarks : ∀ d ∈ m.due, d ∈ n.due ∨ d.OutOfService = true) : Unplanned a m :=
  ⟨hphase.trans h.phase, hqueue.trans h.queue, by rw [hrx]; exact h.rx, hring.trans h.ring, htilt.trans h.tilt,
    hscale.trans h.supplyScale, hmode.trans h.ringMode, hfaults.trans h.faults, hinputs.trans h.inputs, hlive.trans h.live,
    fun d hd => (hmarks d hd).elim (h.marks d) id⟩

theorem unplanned_dropDue {a n : Node} (h : Unplanned a n) (d : Due) : Unplanned a (dropDue d n) :=
  h.act rfl rfl rfl rfl rfl rfl rfl rfl rfl rfl fun _ hx => .inl (List.mem_filter.1 hx).1

theorem unplanned_addDue {a n : Node} (h : Unplanned a n) {d : Due} (hd : d.OutOfService = true) : Unplanned a (addDue d n) :=
  h.act rfl rfl rfl rfl rfl rfl rfl rfl rfl rfl fun x hx => by
    rcases List.mem_append.1 hx with hx | hx
    · exact .inl hx
    · rw [List.mem_singleton.1 hx]
      exact .inr hd

theorem unplanned_setAxisDrive {a n : Node} (h : Unplanned a n) (x : Axis) (d : AxisDrive) : Unplanned a (n.setAxisDrive x d) :=
  h.act (by simp) (by simp) (by simp) (by simp) (by simp) (by simp) (by simp) (by simp) (by simp) (by simp)
    fun _ hx => .inl (by simpa using hx)

theorem changeBrake_marks (x : Axis) (n : Node) : ∀ d ∈ (changeBrake x n).due, d ∈ n.due := by
  intro d hd
  unfold changeBrake at hd
  dsimp only at hd
  split at hd
  · simpa using hd
  · split at hd
    · simpa using hd
    · simpa using (List.mem_filter.1 hd).1

theorem unplanned_build {a n : Node} (hs : a.inService = false) (h : Unplanned a n) : Unplanned a (build n) := by
  rw [built_outOfService (h.served hs)]
  exact h.act (by simp [built]) (by simp [built]) (by simp [built]) (by simp [built]) (by simp [built]) (by simp [built])
    (by simp [built]) (by simp [built]) (by simp [built]) (by simp [built])
    fun d hd => .inl (by simpa [built] using (List.mem_filter.1 hd).1)

theorem unplanned_takeDue {a n : Node} (hs : a.inService = false) (h : Unplanned a n) (d : Due) : Unplanned a (takeDue d n) := by
  by_cases hd : d ∈ n.due
  swap
  · rw [takeDue_of_not_mem hd]
    exact h
  have hmark := h.marks d hd
  have hdrop := unplanned_dropDue h d
  rw [takeDue_of_mem hd]
  cases d with
  | statusPeriod => exact unplanned_build hs hdrop
  | permit => exact hdrop.act rfl rfl rfl rfl rfl rfl rfl rfl rfl rfl fun _ => .inl
  | brake x =>
    show Unplanned a (expireBrake x _)
    unfold expireBrake
    split
    · have hset := unplanned_setAxisDrive hdrop x { (dropDue (.brake x) n).axisDrive x with brakeTimer := 0 }
      rw [raise_of_barred (.inl (hset.served hs))]
      exact hset
    · exact hdrop
  | recheck =>
    show Unplanned a (recheck _)
    unfold recheck
    have hread : Unplanned a { dropDue .recheck n with cfg := { (dropDue .recheck n).cfg with
        lastDigest := digestOf (dropDue .recheck n).live, recheck := some 256 } } :=
      hdrop.act rfl rfl rfl rfl rfl rfl rfl rfl rfl rfl fun _ => .inl
    rw [raiseIf_outOfService (hread.served hs)]
    exact hread
  | _ => cases hmark

theorem convert_outOfService {n : Node} (hs : n.inService = false) (r : BitVec 10) : convert r n = n := by
  unfold convert
  split
  · rw [hs]
    rfl
  · rfl

theorem unplanned_completeRead {a n : Node} (hs : a.inService = false) (h : Unplanned a n) (x : Axis) :
    Unplanned a (completeRead x none n) := by
  by_cases hread : (n.axisDrive x).reading = true
  · rw [completeRead_none hread, raiseIf_outOfService (by rw [readFailed_inService]; exact h.served hs)]
    exact (unplanned_setAxisDrive h x _).act rfl rfl rfl rfl rfl rfl rfl rfl rfl rfl fun _ => .inl
  · rw [show completeRead x none n = n from if_neg hread]
    exact h

theorem unplanned_runBlock {a n : Node} (hs : a.inService = false) (h : Unplanned a n) {b : TickBlock} (hown : b.IsBlock = true) :
    Unplanned a (runBlock b n) := by
  have hn : n.inService = false := h.served hs
  have same {m : Node} (hm : m = n) : Unplanned a m := hm ▸ h
  have plan (x : Axis) {m : Node} (hm : m.inService = false) : planAxis x m = m := if_pos hm
  have brake (x : Axis) {m : Node} (hm : Unplanned a m) : Unplanned a (superviseBrake x m) := by
    unfold superviseBrake
    dsimp only
    split
    · exact hm
    · rw [raiseIf_outOfService (hm.served hs)]
      exact hm
    · split
      · rw [raiseIf_outOfService (hm.served hs)]
        exact hm
      · split
        · exact unplanned_addDue hm rfl
        · exact unplanned_setAxisDrive hm _ _
  cases b with
  | expiry d => cases hown
  | conversion r => cases hown
  | clashAge => exact ⟨h.phase, h.queue, h.rx, h.ring, h.tilt, h.supplyScale, h.ringMode, h.faults, h.inputs, h.live, h.marks⟩
  | peerAging => exact same (if_neg (by rw [hn]; decide))
  | statusTimer =>
    show Unplanned a (lowerStatusTimer n)
    unfold lowerStatusTimer
    split
    · exact h
    · split
      · exact unplanned_addDue h rfl
      · exact h.act rfl rfl rfl rfl rfl rfl rfl rfl rfl rfl fun _ => .inl
  | permitTimer =>
    show Unplanned a (lowerPermitTimer n)
    unfold lowerPermitTimer
    split
    · exact h
    · split
      · exact unplanned_addDue h rfl
      · exact h.act rfl rfl rfl rfl rfl rfl rfl rfl rfl rfl fun _ => .inl
  | armTimer =>
    refine same (if_neg fun hp => ?_)
    rcases phase_outOfService hn with e | e <;> rw [e] at hp <;> cases hp.1
  | settleCount =>
    refine same (if_neg fun hp => ?_)
    rcases phase_outOfService hn with e | e <;> rw [e] at hp <;> cases hp
  | planners =>
    have hscale : rescale n = n := if_neg (by rw [hn]; decide)
    refine same ?_
    show planAxis .tilt (planAxis .ring (rescale n)) = n
    rw [hscale, plan _ hn, plan _ hn]
  | skewCheck => exact same (raiseIf_outOfService hn _ _)
  | brakeTimers => exact brake .tilt (brake .ring h)
  | towLogic =>
    refine same (if_neg ?_)
    rw [hn]
    simp
  | tiltDriveCheck => exact same (raiseIf_outOfService hn _ _)
  | limitCheck => exact same (raiseIf_outOfService hn _ _)
  | recheckTimer =>
    show Unplanned a (lowerRecheckTimer n)
    unfold lowerRecheckTimer
    split
    · exact h
    · split
      · exact unplanned_addDue h rfl
      · exact h.act rfl rfl rfl rfl rfl rfl rfl rfl rfl rfl fun _ => .inl
  | monitorTurn => exact h.act rfl rfl rfl rfl rfl rfl rfl rfl rfl rfl fun _ => .inl
  | followCheck => exact same (raiseIf_outOfService hn _ _)
  | exchange => exact h.act rfl rfl rfl rfl rfl rfl rfl rfl rfl rfl fun _ => .inl

/-- What a tick of a wagon out of service is made of, with no frame waiting. -/
def TakenOutOfService (c : Instr) : Prop :=
  c.InBlock ∨ c = .driveExchangeComplete none ∨ ∃ x, c = .sensorReadComplete x none

theorem unplanned_keptBy {a : Node} (hs : a.inService = false) :
    KeptBy (Unplanned a) TakenOutOfService (fun _ => True) where
  consequence tick c n hc h := by
    have hquiet {m : Node} (q : Quiet n m) (hd : ∀ d ∈ m.due, d ∈ n.due) : Unplanned a m :=
      h.act q.phase q.queue q.rx q.ring q.tilt q.supplyScale q.ringMode q.faults q.inputs (by rw [q.cfg]) fun d hx => .inl (hd d hx)
    rcases nextConsequence_cases hc with ⟨x, rfl⟩ | rfl | ⟨-, hp⟩
    · exact hquiet (quiet_changeBrake (.refl n) x) (changeBrake_marks x n)
    · exact hquiet (quiet_setHolds (.refl n) _) fun d hd => by simpa [applyConsequence] using hd
    · rw [phaseConsequence_outOfService (h.served hs)] at hp
      cases hp
  build n h := unplanned_build hs h
  mark n b h := h.act rfl rfl rfl rfl rfl rfl rfl rfl rfl rfl fun _ => .inl
  pend n b h := h.act rfl rfl rfl rfl rfl rfl rfl rfl rfl rfl fun _ => .inl
  allow n h := h.act rfl rfl rfl rfl rfl rfl rfl rfl rfl rfl fun _ => .inl
  effect c n hc h := by
    rcases hc with (⟨d, rfl⟩ | ⟨r, rfl⟩) | rfl | ⟨x, rfl⟩
    · rw [effectOf_command]
      exact unplanned_takeDue hs h d
    · show Unplanned a (convert r n)
      rw [convert_outOfService (h.served hs)]
      exact h
    · show Unplanned a (completeExchange none n)
      unfold completeExchange
      split
      · exact h.act rfl rfl rfl rfl rfl rfl rfl rfl rfl rfl fun _ => .inl
      · exact h
    · exact unplanned_completeRead hs h x
  block b n _ hown h := unplanned_runBlock hs h hown

/-- A tick out of service, with no mark and no frame waiting (R53, R90, R173). -/
theorem unplanned_controlTick {a : Node} (hs : a.inService = false) (hq : a.rx.queue = []) (hdue : a.due = [])
    (order : List TickBlock) : Unplanned a (controlTick order a) := by
  have hkept := unplanned_keptBy hs
  have hself : Unplanned a a := ⟨rfl, rfl, rfl, rfl, rfl, rfl, rfl, rfl, rfl, rfl, by rw [hdue]; exact fun d => nofun⟩
  have hnothing : forceDue a = a := by unfold forceDue; rw [hdue]; rfl
  have hlinks : Unplanned a (forceLinks (forceDue a)) := by
    rw [hnothing]
    exact hkept.forceLinks (.inr (.inl rfl)) (fun x => .inr (.inr ⟨x, rfl⟩)) a hself
  have hbefore : Unplanned a (beforeTick a) := by
    have hempty : (forceLinks (forceDue a)).rx.queue = [] := by simp [hq]
    have hhead : beforeTick a = forceLinks (forceDue a) := by
      unfold beforeTick forceHead
      rw [hempty]
    rw [hhead]
    exact hlinks
  exact hkept.finish true _ (hkept.runBlocks (fun _ h => .inl h) _ (fun _ _ => trivial) _ (hkept.allow _ hbefore))

end Node

open Node

/-- Settles O13: every block and every step a tick takes leaves the part out of service unplanned. -/
theorem tickPlansNothingOutOfService : Obligations.TickPlansNothingOutOfService := by
  intro order s hlisten hphase hqueue hdue
  have hs : s.node.inService = false := by
    unfold inService
    rcases hphase with e | e <;> rw [e] <;> rfl
  have hexec : exec (.controlTick order) s = .next { s with node := controlTick order s.node } := by
    show execControlTick order s = _
    unfold execControlTick
    rw [hlisten.1, deliverHalts_nil hlisten.2]
    rfl
  have h := unplanned_controlTick hs hqueue hdue order
  have hdone : (controlTick order s.node).nextConsequence true = none := finish_done true _
  have hclash := clashAge_controlTick order s.node
  refine ⟨_, hexec, h.ring, h.tilt, h.supplyScale, h.faults, h.phase, h.queue, fun c hc => ?_, released_of_still hdone ?_ ?_, ?_,
    h.ringMode, h.inputs, h.live⟩
  · rw [holds_of_calm hdone, wantedHolds_outOfService (h.served hs)]
    simp [HoldSet.has_when, Ne.symm hc]
  · rcases phase_outOfService (h.served hs) with e | e <;> rw [e] <;> rfl
  · rcases phase_outOfService (h.served hs) with e | e <;> rw [e] <;> decide
  · rw [← hclash, ← h.rx]

end Sys2Proof.Machine
end

section
/-! A control tick takes what is due, runs every block, and begins the exchange and both reads (R20, R90, R140, R144). -/

namespace Sys2Proof.Machine

namespace Node

/-! ### What the blocks leave of the links, and of being in service -/

theorem raise_inService (k : FaultKind) (n : Node) : (raise k n).inService = n.inService := by
  rcases raise_cases k n with h | ⟨hs, -, hp⟩
  · rw [h]
  · rw [hs]
    exact inService_of_phase _ hp rfl

theorem onlyRaises_inService {n m : Node} (h : OnlyRaises n m) : m.inService = n.inService :=
  h.induct (P := fun x => x.inService = n.inService) (fun hk hx => by
    unfold inService at hx ⊢
    rw [hk.phase, hx]) (fun k x hx => (raise_inService k x).trans hx) rfl

/-- No consequence takes the part into service or out of it. -/
theorem applyConsequence_inService {tick : Bool} {n : Node} {c : Consequence} (h : n.nextConsequence tick = some c) :
    (applyConsequence c n).inService = n.inService := by
  have stays {p q : Phase} (hn : n.cue.phase = p) (hm : (applyConsequence c n).cue.phase = q) (hp : p.inService = true)
      (hq : q.inService = true) : (applyConsequence c n).inService = n.inService :=
    (inService_of_phase q hm hq).trans (inService_of_phase p hn hp).symm
  have same (hm : (applyConsequence c n).cue.phase = n.cue.phase) : (applyConsequence c n).inService = n.inService :=
    congrArg Phase.inService hm
  rcases nextConsequence_cases h with ⟨a, rfl⟩ | rfl | ⟨-, hp⟩
  · exact same (changeBrake_cue_phase a n)
  · obtain ⟨b, e⟩ := setHolds_eq n.wantedHolds n
    exact same (congrArg (·.cue.phase) e)
  rcases phaseConsequence_cases hp with ⟨rfl, e, -⟩ | ⟨rfl, e, -⟩ | ⟨rfl, e, -⟩ | ⟨rfl, e, -⟩ | ⟨rfl, e, -⟩ | ⟨rfl, e, -⟩ | ⟨rfl, e, -⟩ | ⟨rfl, e, -⟩ | ⟨rfl, e⟩
  · by_cases hd : n.digestAgree = true
    · exact stays (q := .armed) e (by simp [applyConsequence, hd]) rfl rfl
    · exact stays (q := .idle) e (by simp [applyConsequence, hd]) rfl rfl
  · exact stays (q := .idle) e (by simp [applyConsequence]) rfl rfl
  · rcases enterMoving_cue_phase n with hm | hm
    · exact stays e hm rfl rfl
    · exact stays e hm rfl rfl
  · exact stays (q := .holding) e (by simp [applyConsequence]) rfl rfl
  · exact stays (q := .settling) e (by simp [applyConsequence]) rfl rfl
  · exact stays (q := .moving) e (by simp [applyConsequence]) rfl rfl
  · exact stays (q := .idle) e (by simp [applyConsequence]) rfl rfl
  · exact stays (q := .idle) e (by simp [applyConsequence]) rfl rfl
  · exact same (by simp [applyConsequence])

/-- `m` has come from `n` with the links as they were, in service or out of it as before. -/
structure LinksStand (n m : Node) : Prop where
  links : m.drive.links = n.drive.links
  served : m.inService = n.inService

theorem LinksStand.refl (n : Node) : LinksStand n n := ⟨rfl, rfl⟩

theorem LinksStand.trans {a n m : Node} (h : LinksStand a n) (g : LinksStand n m) : LinksStand a m :=
  ⟨g.links.trans h.links, g.served.trans h.served⟩

theorem linksStand_of {n m : Node} (hdrive : m.drive = n.drive) (h : OnlyRaises n m) : LinksStand n m :=
  ⟨congrArg Drive.links hdrive, onlyRaises_inService h⟩

theorem linksStand_setAxisDrive (n : Node) {a : Axis} {d : AxisDrive} (hd : d.links = (n.axisDrive a).links) :
    LinksStand n (n.setAxisDrive a d) :=
  ⟨setAxisDrive_drive_links a d n hd, by simp [inService]⟩

theorem linksStand_dropDue (d : Due) (n : Node) : LinksStand n (dropDue d n) := ⟨rfl, rfl⟩

theorem linksStand_takeDue (d : Due) (n : Node) : LinksStand n (takeDue d n) := by
  unfold takeDue
  split
  · refine (linksStand_dropDue d n).trans ?_
    generalize dropDue d n = m
    cases d with
    | statusPeriod => exact linksStand_of (build_drive m) (onlyRaises_build m)
    | peerStale st =>
      refine linksStand_of ?_ (onlyRaises_entryStale st m)
      show (entryStale st m).drive = _
      unfold entryStale
      (repeat' split) <;> simp
    | peerLost st =>
      refine linksStand_of ?_ (onlyRaises_entryLost st m)
      show (entryLost st m).drive = _
      unfold entryLost
      (repeat' split) <;> simp
    | arm =>
      show LinksStand m (expireArm m)
      unfold expireArm
      split
      next hp =>
        exact ⟨by simp, (inService_of_phase _ (failHead_cue_phase _ _) rfl).trans (inService_of_phase _ hp rfl).symm⟩
      · exact .refl m
    | permit => exact ⟨rfl, rfl⟩
    | brake a =>
      show LinksStand m (expireBrake a m)
      unfold expireBrake
      split
      · refine (linksStand_setAxisDrive m (a := a) ?_).trans (linksStand_of (raise_drive _ _) (.raise _ _))
        rfl
      · exact .refl m
    | recheck => exact linksStand_of (raiseIf_drive _ _ _) (onlyRaises_recheck m)
    | pinch a => exact linksStand_of (by simp [dueEffect, reachPinch]) (onlyRaises_reachPinch a m)
    | settle =>
      show LinksStand m (reachSettle m)
      unfold reachSettle
      split
      next hp => exact ⟨by simp, (inService_of_phase _ (setPhase_phase _ _) rfl).trans (inService_of_phase _ hp rfl).symm⟩
      · exact .refl m
    | trip c =>
      refine linksStand_of ?_ (onlyRaises_trip c m)
      show (trip c m).drive = _
      unfold trip
      dsimp only
      split <;> simp [setLiveRecord]
    | untrip c =>
      refine linksStand_of ?_ (.keeps (keepsCourse_untrip c m))
      show (untrip c m).drive = _
      unfold untrip
      dsimp only
      split <;> rfl
  · exact .refl n

theorem linksStand_runBlock {b : TickBlock} (hb : b ≠ .exchange) (hown : b.IsBlock = true) (n : Node) :
    LinksStand n (runBlock b n) := by
  have plan (a : Axis) (m : Node) : LinksStand m (planAxis a m) := by
    have hdrive : (planAxis a m).drive = m.drive := by
      unfold planAxis profileTick controlledTick emergencyTick
      dsimp only
      (repeat' split) <;> simp
    refine ⟨congrArg Drive.links hdrive, ?_⟩
    unfold inService
    rw [planAxis_cue]
  have brake (a : Axis) (m : Node) : LinksStand m (superviseBrake a m) := by
    unfold superviseBrake
    dsimp only
    split
    · exact .refl m
    · exact linksStand_of (raiseIf_drive _ _ _) (onlyRaises_raiseIf _ _ _)
    · split
      · exact linksStand_of (raiseIf_drive _ _ _) (onlyRaises_raiseIf _ _ _)
      · split
        · exact ⟨rfl, rfl⟩
        · exact linksStand_setAxisDrive m rfl
  cases b with
  | exchange => exact absurd rfl hb
  | expiry d => cases hown
  | conversion r => cases hown
  | clashAge => exact ⟨rfl, rfl⟩
  | peerAging =>
    show LinksStand n (agePeers n)
    unfold agePeers
    split <;> exact ⟨rfl, rfl⟩
  | statusTimer =>
    show LinksStand n (lowerStatusTimer n)
    unfold lowerStatusTimer
    (repeat' split) <;> exact ⟨rfl, rfl⟩
  | permitTimer =>
    show LinksStand n (lowerPermitTimer n)
    unfold lowerPermitTimer
    (repeat' split) <;> exact ⟨rfl, rfl⟩
  | armTimer =>
    show LinksStand n (lowerArmTimer n)
    unfold lowerArmTimer
    (repeat' split) <;> exact ⟨rfl, rfl⟩
  | settleCount =>
    show LinksStand n (countSettle n)
    unfold countSettle
    (repeat' split) <;> exact ⟨rfl, rfl⟩
  | recheckTimer =>
    show LinksStand n (lowerRecheckTimer n)
    unfold lowerRecheckTimer
    (repeat' split) <;> exact ⟨rfl, rfl⟩
  | planners =>
    have hscale : LinksStand n (rescale n) := by
      unfold rescale
      split <;> exact ⟨rfl, rfl⟩
    exact (hscale.trans (plan .ring _)).trans (plan .tilt _)
  | skewCheck => exact linksStand_of (raiseIf_drive _ _ _) (onlyRaises_raiseIf _ _ _)
  | brakeTimers => exact (brake .ring n).trans (brake .tilt _)
  | towLogic =>
    show LinksStand n (decideTow n)
    unfold decideTow
    split
    · split
      · exact ⟨by simp [enterTowed], by simp [enterTowed, inService]⟩
      · exact linksStand_of (raise_drive _ _) (.raise _ _)
    · exact .refl n
  | tiltDriveCheck => exact linksStand_of (raiseIf_drive _ _ _) (onlyRaises_raiseIf _ _ _)
  | limitCheck => exact linksStand_of (raiseIf_drive _ _ _) (onlyRaises_raiseIf _ _ _)
  | monitorTurn => exact ⟨rfl, rfl⟩
  | followCheck => exact linksStand_of (raiseIf_drive _ _ _) (onlyRaises_raiseIf _ _ _)

/-- Every block but the exchange leaves the links, and leaves the part in service or out of it. -/
theorem linksStand_keptBy (a : Node) : KeptBy (LinksStand a) (fun c => c.InBlock) (fun b => b ≠ .exchange) where
  consequence _ c n hc h := h.trans ⟨applyConsequence_drive_links c n, applyConsequence_inService hc⟩
  build n h := h.trans (linksStand_of (build_drive n) (onlyRaises_build n))
  mark _ _ h := ⟨h.links, h.served⟩
  pend _ _ h := ⟨h.links, h.served⟩
  allow _ h := ⟨h.links, h.served⟩
  effect c n hc h := h.trans <| by
    rcases hc with ⟨d, rfl⟩ | ⟨r, rfl⟩
    · rw [effectOf_command]
      exact linksStand_takeDue d n
    · refine linksStand_of ?_ (.keeps (keepsCourse_convert r n))
      show (convert r n).drive = _
      unfold convert
      (repeat' split) <;> rfl
  block _ n hb hown h := h.trans (linksStand_runBlock hb hown n)

/-! ### The exchange of a tick -/

/-- A tick leaves its exchange and both reads begun, with the setpoints it ends with (R140, R144). -/
theorem exchange_controlTick (order : List TickBlock) (a : Node) :
    let n := controlTick order a
    n.drive.exchanging = true ∧ (∀ x, (n.axisDrive x).reading = true)
      ∧ (n.inService = true →
          n.drive.request.ringSetpoint = wholeUnits n.ring.setpoint - Live.homeOffset n.cfg.live
            ∧ n.drive.request.tiltSetpoint = wholeUnits n.tilt.setpoint)
      ∧ (n.inService = false →
          n.drive.request = { ringEnable := false, tiltEnable := false, ringSetpoint := n.drive.ring.raw
                              tiltSetpoint := n.drive.tilt.raw, ringFeed := 0, tiltFeed := 0 }) := by
  intro n
  obtain ⟨before, after, hsplit, -, hafter⟩ := schedule_planners_first order (b := .exchange) (by decide) rfl
  set m := runBlocks before (allow (beforeTick a)) with hm
  have hn : n = finish true (runBlocks after (settled true (beginExchange m))) := by
    show controlTick order a = _
    unfold controlTick
    rw [hsplit, runBlocks_append, runBlocks_cons, ← hm]
    rfl
  have hlinks : LinksStand (beginExchange m) n := by
    have hkept := linksStand_keptBy (beginExchange m)
    rw [hn]
    exact hkept.finish true _ (hkept.runBlocks (fun _ h => h) after (fun b hb => (hafter b hb).2) _ (hkept.settled true _ (.refl _)))
  have hset : SetpointsStand true (beginExchange m) n := by
    have hkept := (setpointsStand_closed true (beginExchange m)).keptBy
    rw [hn]
    exact hkept.finish true _ (hkept.runBlocks (fun _ h => h.isMove) after (fun b hb => (hafter b hb).1) _
      (hkept.settled true _ (.refl true _)))
  clear_value n m
  have hrequest : n.drive.request = m.requestNow := congrArg Drive.request hlinks.links
  have hserved : n.inService = m.inService := hlinks.served
  refine ⟨congrArg Drive.exchanging hlinks.links, fun x => ?_, fun hs => ?_, fun hs => ?_⟩
  · cases x
    · exact congrArg (fun d : Drive => d.ring.reading) hlinks.links
    · exact congrArg (fun d : Drive => d.tilt.reading) hlinks.links
  · obtain ⟨-, hset, hlive, -⟩ := hset hs
    have hring : n.ring.setpoint = m.ring.setpoint := hset .ring
    have htilt : n.tilt.setpoint = m.tilt.setpoint := hset .tilt
    have hlive' : n.cfg.live = m.cfg.live := hlive
    rw [hrequest, hring, htilt, hlive']
    unfold requestNow homeOffset
    rw [← hserved, hs]
    exact ⟨rfl, rfl⟩
  · have hring : n.drive.ring.raw = m.drive.ring.raw := by
      have h := congrArg (fun d : Drive => d.ring.raw) hlinks.links
      exact h
    have htilt : n.drive.tilt.raw = m.drive.tilt.raw := by
      have h := congrArg (fun d : Drive => d.tilt.raw) hlinks.links
      exact h
    rw [hrequest, hring, htilt]
    unfold requestNow
    rw [← hserved, hs]
    rfl

/-! ### What is due by a tick (R20, log entry 1) -/

theorem forceDue_nil {n : Node} (h : n.due = []) : forceDue n = n := by
  unfold forceDue
  rw [h]
  rfl

theorem forceHead_empty {n : Node} (h : n.rx.queue = []) : forceHead n = n := by
  unfold forceHead
  rw [h]

/-- With the links idle and no frame waiting, a tick takes the outstanding marks alone. -/
theorem beforeTick_due {n : Node} (hx : n.drive.exchanging = false) (hr : n.drive.ring.reading = false)
    (ht : n.drive.tilt.reading = false) (hq : n.rx.queue = []) : beforeTick n = forceDue n := by
  have hlinks : (forceDue n).drive.links = n.drive.links :=
    foldl_keeps (P := fun m => m.drive.links = n.drive.links) _ (fun m d hm => by
      rw [finish_drive_links, (linksStand_takeDue d m).links, hm]) _ n rfl
  have hidle : forceLinks (forceDue n) = forceDue n := by
    refine forceLinks_idle ((congrArg Drive.exchanging hlinks).trans hx) fun a => ?_
    cases a
    · exact (congrArg (fun d : Drive => d.ring.reading) hlinks).trans hr
    · exact (congrArg (fun d : Drive => d.tilt.reading) hlinks).trans ht
  unfold beforeTick
  rw [hidle]
  exact forceHead_empty (by rw [forceDue_rx]; exact hq)

/-- Without a mark and without a frame waiting, a tick takes the completions of the links alone. -/
theorem beforeTick_links {n : Node} (hdue : n.due = []) (hq : n.rx.queue = []) : beforeTick n = forceLinks n := by
  unfold beforeTick
  rw [forceDue_nil hdue]
  exact forceHead_empty (by rw [forceLinks_rx]; exact hq)

/-- The frame at the head that is not finished with is taken by its kind (R20). -/
theorem forceHead_kind {n : Node} {f : List Byte} {rest : List (List Byte)} (hq : n.rx.queue = f :: rest)
    (hfate : n.headFate = none) :
    (frameKind f = 1 → forceHead n = finish false (applyStatus n)) ∧ (frameKind f = 2 → forceHead n = finish false (applyCue n))
      ∧ (frameKind f = 3 → forceHead n = finish false (applyPermit n))
      ∧ (frameKind f = 5 → forceHead n =
          finish false (applyClearTow (finish false (applyClearFault (finish false (applyClearLatch n))))))
      ∧ (frameKind f = 6 → forceHead n = finish false (applyCancel n))
      ∧ (frameKind f = 7 → forceHead n = finish false (applyInquire n))
      ∧ (frameKind f = 9 → forceHead n = finish false (applyReset n)) := by
  unfold forceHead
  rw [hq, hfate]
  refine ⟨fun h => ?_, fun h => ?_, fun h => ?_, fun h => ?_, fun h => ?_, fun h => ?_, fun h => ?_⟩ <;>
    simp only [h, Option.isSome_none, Bool.false_eq_true, if_false]

/-- The first two parts of a CLEAR leave the part taking events. -/
theorem listening_clearParts {n : Node} (h : n.Listening) : (applyClearLatch n).Listening ∧ (applyClearFault n).Listening := by
  have hclose (f : List Byte) {m : Node} (hm : m.Listening) : (closeClear f m).Listening := by
    unfold closeClear
    dsimp only
    split <;> exact hm
  have hclear : (clearFaults n).Listening := by
    unfold clearFaults
    dsimp only
    constructor
    · (repeat' split) <;> simpa using h.1
    · (repeat' split) <;> simpa using h.2
  refine ⟨withHead_induct (P := fun m : Node => m.Listening) (fun f _ => ?_) h,
    withHead_induct (P := fun m : Node => m.Listening) (fun f _ => ?_) h⟩
  · dsimp only
    split
    · exact h
    · refine hclose _ ?_
      exact h
  · dsimp only
    split
    · exact h
    · refine hclose _ ?_
      exact hclear

theorem listening_finish {n : Node} (h : n.Listening) : (finish false n).Listening :=
  ⟨(finish_rstnLow false n).trans h.1, by rw [finish_rx]; exact h.2⟩

/-- The exchange without a reply brings nothing with it between ticks (R141). -/
theorem finish_completeExchange {n : Node} (hs : n.Steady) : finish false (completeExchange none n) = completeExchange none n := by
  obtain ⟨-, hevent, hcalm⟩ := hs
  unfold completeExchange
  split
  · exact finish_of_none ((nextConsequence_links (n := n) n.counters rfl rfl).trans hcalm) hevent
  · exact finish_of_none hcalm hevent

/-- The links' completions of a tick are those of their own commands without a reply or a value (R140, R144). -/
theorem forceLinks_exec {s a b c : State} (hs : s.node.Steady)
    (ha : (if s.node.drive.exchanging then exec (.driveExchangeComplete none) s else .next s) = .next a)
    (hb : (if a.node.drive.ring.reading then exec (.sensorReadComplete .ring none) a else .next a) = .next b)
    (hc : (if b.node.drive.tilt.reading then exec (.sensorReadComplete .tilt none) b else .next b) = .next c) :
    forceLinks s.node = c.node := by
  have next {x y : State} (h : (Host.Outcome.next x : Host.Outcome State Fault Refusal) = .next y) : x = y := by
    injection h
  have hread {x y : State} (axis : Axis) (hx : x.node.Listening)
      (h : (if (x.node.axisDrive axis).reading then exec (.sensorReadComplete axis none) x else .next x) = .next y) :
      y.node = (if (x.node.axisDrive axis).reading then finish false (completeRead axis none x.node) else x.node)
        ∧ y.node.Listening := by
    split at h
    next hr =>
      rw [show exec (.sensorReadComplete axis none) x = _ from takeStep_listening hx] at h
      rw [← next h, if_pos hr]
      refine ⟨rfl, by simpa [completeRead_none hr, readFailed] using hx.1, by simpa using hx.2⟩
    next hr =>
      rw [← next h, if_neg hr]
      exact ⟨rfl, hx⟩
  have hanode : a.node = (if s.node.drive.exchanging then completeExchange none s.node else s.node) ∧ a.node.Listening := by
    have hlisten : s.node.Listening := hs.1
    split at ha
    next hx =>
      rw [show exec (.driveExchangeComplete none) s = _ from takeStep_listening hlisten, finish_completeExchange hs] at ha
      rw [← next ha, if_pos hx]
      refine ⟨rfl, ?_, ?_⟩
      · show (completeExchange none s.node).rstnLow = false
        unfold completeExchange
        split <;> exact hlisten.1
      · show (completeExchange none s.node).rx.halts = []
        rw [completeExchange_rx]
        exact hlisten.2
    next hx =>
      rw [← next ha, if_neg hx]
      exact ⟨rfl, hlisten⟩
  obtain ⟨hb', hlisten⟩ := hread .ring hanode.2 hb
  obtain ⟨hc', -⟩ := hread .tilt hlisten hc
  unfold forceLinks
  dsimp only
  rw [← hanode.1]
  exact (congrArg (fun m : Node => if m.drive.tilt.reading then finish false (completeRead .tilt none m) else m) hb'.symm).trans
    hc'.symm

end Node

open Node

/-- A RESET that samples the straps as they were sampled before. -/
theorem exec_reset_same {s : State} (h : s.node.Listening) :
    exec (.reset s.node.cfg.strapPins) s = .next { s with node := finish false (applyReset s.node) } := by
  have hpins : ({ s.node with cfg := { s.node.cfg with strapPins := s.node.cfg.strapPins } } : Node) = s.node := rfl
  have heff : effectOf (.reset s.node.cfg.strapPins) s.node = applyReset s.node := congrArg applyReset hpins
  rw [exec_eq_takeStep (by simp [Instr.IsOwnStep]), takeStep_listening h, heff]

/-- Settles O12: the tick's own equations, the order of its blocks, and what its last blocks leave. -/
theorem tickRunsEveryBlock : Obligations.TickRunsEveryBlock := by
  have htick (order : List TickBlock) (s : State) (h : s.node.Listening) :
      exec (.controlTick order) s = .next { s with node := controlTick order s.node } := by
    show execControlTick order s = _
    unfold execControlTick
    rw [h.1, deliverHalts_nil h.2]
    rfl
  refine ⟨fun order s h => htick order s h, fun n => ?_, fun s hs => ?_, fun order b hb => ?_, fun order s h => ?_⟩
  · refine ⟨rfl, rfl, rfl, rfl, rfl, rfl, rfl, rfl, rfl, rfl, rfl, rfl, rfl, rfl, ?_, fun _ => rfl, fun _ => rfl⟩
    have hturn : (n.inService && n.monitor.turn.isSome) = true ↔ n.inService = true ∧ n.monitor.turn ≠ none := by
      rw [Bool.and_eq_true, Option.isSome_iff_ne_none]
    exact congrArg (fun x => { n with monitor := { n.monitor with converting := x } }) (if_congr hturn rfl rfl)
  · have hlisten : s.node.Listening := hs.1
    have hevent : s.node.statusEvent = false := hs.2.1
    have hcalm : s.node.Calm := hs.2.2
    refine ⟨fun ⟨hx, hr, ht⟩ hq => ?_, fun hdue hq a b c ha hb hc => ?_, fun hdue ⟨hx, hr, ht⟩ f rest hq => ?_⟩
    · exact beforeTick_due hx hr ht hq
    · rw [beforeTick_links hdue hq]
      exact forceLinks_exec hs ha hb hc
    · have hbefore : s.node.beforeTick = forceHead s.node := by
        unfold beforeTick
        rw [forceDue_nil hdue, forceLinks_idle hx fun a => by cases a; exacts [hr, ht]]
      have takes {i : Instr} {effect : Node → Node} (hi : exec i s = takeStep effect s)
          (hhead : forceHead s.node = finish false (effect s.node)) :
          exec i s = .next { s with node := s.node.beforeTick } := by
        rw [hi, takeStep_listening hlisten, hbefore, hhead]
      refine ⟨fun hfate => ?_, fun hfate => ?_⟩
      · obtain ⟨x, hx⟩ := Option.ne_none_iff_exists'.1 hfate
        have hcount : frameComplete s.node =
            countFate x { s.node with rx := { s.node.rx with queue := s.node.rx.queue.tail, head := .initial } } := by
          unfold frameComplete
          rw [hx]
        have hhead : forceHead s.node = frameComplete s.node := by
          unfold forceHead
          rw [hq]
          exact if_pos (Option.isSome_iff_ne_none.2 hfate)
        rw [hbefore, hhead, hcount]
        exact takeStep_calm hlisten hcount hcalm hevent
      · obtain ⟨h1, h2, h3, h5, h6, h7, h9⟩ := forceHead_kind hq hfate
        refine ⟨fun hk => takes rfl (h1 hk), fun hk => takes rfl (h2 hk), fun hk => takes rfl (h3 hk), fun hk a b c ha hb hc => ?_,
          fun hk => takes rfl (h6 hk), fun hk => takes rfl (h7 hk), fun hk => ?_⟩
        swap
        · exact (exec_reset_same hlisten).trans (by rw [hbefore, h9 hk])
        rw [show exec .clearLatchPart s = _ from takeStep_listening hlisten] at ha
        injection ha with ha
        have hla : a.node.Listening := ha ▸ listening_finish (listening_clearParts hlisten).1
        rw [show exec .clearFaultPart a = _ from takeStep_listening hla] at hb
        injection hb with hb
        have hlb : b.node.Listening := hb ▸ listening_finish (listening_clearParts hla).2
        rw [show exec .clearTowPart b = _ from takeStep_listening hlb] at hc
        injection hc with hc
        rw [hbefore, h5 hk, ← hc, ← hb, ← ha]
  · refine ⟨schedule_count order hb, fun huse => ?_⟩
    obtain ⟨before, after, hsplit, hfirst, -⟩ := schedule_planners_first order hb (by rcases huse with rfl | rfl <;> rfl)
    exact ⟨before, after, hsplit, hfirst⟩
  · exact ⟨_, htick order s h, clashAge_controlTick order s.node, exchange_controlTick order s.node⟩

end Sys2Proof.Machine
end
